-- ==== Sys2Proof/Word.lean ====
section
/-! DEFINITION. The fixed widths of the Window Scheduler (spec/00_scope.md R7) and the types built on them. A word on one of the bulk buses
`wdata`, `rsp_rdata`, `window_o` is a plain number below `2 ^ (8 * PORT_COUNT)` (R7 `BUS_W`, R32): its width is a parameter of
the hardware, so no type carries it, and the invariant `State.Shape` does. -/

namespace Sys2Proof

/-- One port: eight channels (R6, R7 `PORT_W` = 8). Also the MODE register and its operand (`MODE_W` = 8). -/
abbrev Byte := BitVec 8

/-- The PERIOD register, a requested period, a window index, `rsp_rval` (R7 `PERIOD_W` = 16). -/
abbrev Half := BitVec 16

/-- A command word (R7 `CMD_W` = 32, R47). -/
abbrev CmdWord := BitVec 32

/-- A whole bitmap as the registers hold it: one byte per port, port 0 first (R10, R11).
Its length is the port count. -/
abbrev Bitmap := List Byte

end Sys2Proof
end

