-- ==== Sys2Proof/Syntax.lean ====
section
/-! DEFINITION. The six commands (spec/30_encoding.md R50), one constructor per row of the opcode table. Operands have
the widths of R49; the bitmap of SET_BASE_STATES travels on `wdata` and is no part of the command word (R49, R51), so it
is no operand here: the meaning reads it from the sampled bulk word in the state. -/

namespace Sys2Proof

inductive Instr where
  /-- CONFIGURE `mode`, format M (R65). -/
  | configure (mode : Byte)
  /-- SET_BASE_STATES, format B, bitmap on `wdata` (R66). -/
  | setBaseStates
  /-- SET_BASE_STATE `port`, `byte`, format PB (R67). -/
  | setBaseState (port : Byte) (byte : Byte)
  /-- SET_PERIOD `requested`, format V (R68). -/
  | setPeriod (requested : Half)
  /-- GET_BASE_STATES, format N (R69). -/
  | getBaseStates
  /-- COMPUTE_WINDOW `window_index`, format V (R90). -/
  | computeWindow (windowIndex : Half)
  deriving DecidableEq, Repr

end Sys2Proof
end

