-- ==== Sys2Proof/Decode.lean ====
section
/-! DEFINITION. The command word (spec/30_encoding.md R47, R49, R50), the total decoder of R51, the causes for which a
word is illegal (R55), and the encoder. -/

namespace Sys2Proof

/-- Field `op`, bits 31:28 (R47). -/
def cmdOp (w : CmdWord) : BitVec 4 := w.extractLsb' 28 4

/-- Field `rsv`, bits 27:16 (R47). -/
def cmdRsv (w : CmdWord) : BitVec 12 := w.extractLsb' 16 12

/-- Field `arg`, bits 15:0 (R47); the whole operand of format V (R49). -/
def cmdArg (w : CmdWord) : Half := w.extractLsb' 0 16

/-- `arg[15:8]`: `port` of format PB (R49). -/
def cmdArgHigh (w : CmdWord) : Byte := w.extractLsb' 8 8

/-- `arg[7:0]`: `mode` of format M, `byte` of format PB (R49). -/
def cmdArgLow (w : CmdWord) : Byte := w.extractLsb' 0 8

/-- A row of the opcode map (R50): a word `w` selects it when `w AND mask = pattern`; `cut` takes the operands (R49). -/
structure OpcodeRow where
  mnemonic : String
  mask : CmdWord
  pattern : CmdWord
  cut : CmdWord → Instr

/-- The opcode map, in the order of R50. -/
def opcodeRows : List OpcodeRow :=
  [ ⟨"CONFIGURE", 0xFFFFFF00#32, 0x10000000#32, fun w => .configure (cmdArgLow w)⟩,
    ⟨"SET_BASE_STATES", 0xFFFFFFFF#32, 0x20000000#32, fun _ => .setBaseStates⟩,
    ⟨"SET_BASE_STATE", 0xFFFF0000#32, 0x30000000#32, fun w => .setBaseState (cmdArgHigh w) (cmdArgLow w)⟩,
    ⟨"SET_PERIOD", 0xFFFF0000#32, 0x40000000#32, fun w => .setPeriod (cmdArg w)⟩,
    ⟨"GET_BASE_STATES", 0xFFFFFFFF#32, 0x50000000#32, fun _ => .getBaseStates⟩,
    ⟨"COMPUTE_WINDOW", 0xFFFF0000#32, 0x60000000#32, fun w => .computeWindow (cmdArg w)⟩ ]

/-- `w AND row.mask = row.match` (R50, R51). -/
def OpcodeRow.selects (r : OpcodeRow) (w : CmdWord) : Bool := w &&& r.mask == r.pattern

/-- Why a word matches no row (R55, R111). The block answers all three with the one status ILLEGAL. -/
inductive Illegal where
  /-- `op` is `0x0` or `0x7` to `0xF`. -/
  | unusedOpcode
  /-- `op` is used and `rsv` is not zero. -/
  | reservedBits
  /-- `op` is used, `rsv` is zero and a must-be-zero part of `arg` is not zero. -/
  | operandBits
  deriving DecidableEq, Repr

/-- The name of the cause for a word that no row selects (R55; DESIGN CHOICE, safe: log entry 12). -/
def illegalCause (w : CmdWord) : Illegal :=
  if cmdOp w = 0 ∨ 7 ≤ (cmdOp w).toNat then .unusedOpcode
  else if cmdRsv w ≠ 0 then .reservedBits
  else .operandBits

/-- The decoding procedure (R51): the first row, in table order, that the word selects; else illegal, by name.
It reads the command word alone, never the state and never `wdata`. -/
def decode (w : CmdWord) : Except Illegal Instr :=
  match opcodeRows.find? (fun r => r.selects w) with
  | some r => .ok (r.cut w)
  | none => .error (illegalCause w)

/-- The command word `op`, `rsv` = 0, `arg` (R47). -/
def cmdWord (op : BitVec 4) (arg : Half) : CmdWord := op ++ (0#12 ++ arg)

/-- The command word of a command (R47, R49, R50). -/
def encode : Instr → CmdWord
  | .configure mode => cmdWord 0x1#4 (0#8 ++ mode)
  | .setBaseStates => cmdWord 0x2#4 0#16
  | .setBaseState port byte => cmdWord 0x3#4 (port ++ byte)
  | .setPeriod requested => cmdWord 0x4#4 requested
  | .getBaseStates => cmdWord 0x5#4 0#16
  | .computeWindow windowIndex => cmdWord 0x6#4 windowIndex

/-- What the decoder reads from an instruction whose table bits are `w`, `nbits` of them (every command is one 32-bit
word, R56; a number that needs more than 32 bits is no command word). -/
def decodeTableWord (nbits w : Nat) : Option Instr :=
  if w % 2 ^ nbits < 2 ^ 32 then
    match decode (BitVec.ofNat 32 (w % 2 ^ nbits)) with
    | .ok i => some i
    | .error _ => none
  else none

end Sys2Proof
end

