-- ==== Sys2Proof/Config.lean ====
section
/-! DEFINITION. What an implementation fixes (the port count, spec/00_scope.md R6) and the free value of the one
undefined result (spec/42_window_generator.md R99). Nothing here has a body that a proof could look into. -/

namespace Sys2Proof

/-- One less than `PORT_COUNT`. The spec leaves the port count open with `1 ≤ PORT_COUNT ≤ 256` (R6, D1); a number
below 256 plus one is exactly that range. DESIGN CHOICE, safe: log entry 1. -/
opaque Config.portCountLessOne : Fin 256

/-- `PORT_COUNT` of the machine that `State.reset` describes (R6). No meaning reads it: every meaning takes the port
count from the state it runs in, so a statement about all states is a statement about every port count. -/
def Config.portCount : Nat := Config.portCountLessOne.val + 1

/-- The FREE VALUE of COMPUTE_WINDOW with `window_index ≥ PERIOD`: "result undefined" (R99, 93 U1). Byte `port` of the
undefined bitmap of draw number `draw`; every draw is fresh. DESIGN CHOICE, safe: log entry 3. -/
opaque Config.freeWindowByte (draw port : Nat) : Byte

end Sys2Proof
end

