-- ==== Sys2Proof/Machine/State.lean ====
section
/-! DEFINITION. The state of the block (spec/10_state.md R10 to R15), of its command port (spec/30_encoding.md R45, R46,
R48), what the environment presents to it, the reasons a step can stop, and the state after reset (R25, R125). -/

namespace Sys2Proof.Machine

/-- The status of a response (R48). Code 3 is never produced, so it has no constructor. -/
inductive Status where
  /-- 0: the command was executed as its rule says. -/
  | ok
  /-- 1: the word matches no row of the opcode map (R55). -/
  | illegal
  /-- 2: SET_BASE_STATE named a port that does not exist (R111). -/
  | portRange
  deriving DecidableEq, Repr

/-- A response: what is on `rsp_status`, `rsp_rval`, `rsp_rdata` while `rsp_valid` is 1 (R48). -/
structure Response where
  status : Status
  rval : Half
  rdata : Nat
  deriving DecidableEq, Repr

/-- What the environment presents at one rising edge of `clk` at which the block is at a command boundary
(R45, R46, R125). -/
inductive Edge where
  /-- `rst` = 0, `cmd_valid` = 0. -/
  | quiet
  /-- `rst` = 0, `cmd_valid` = 1 with `cmd` and `wdata`. -/
  | present (cmd : CmdWord) (wdata : Nat)
  /-- `rst` = 1. -/
  | reset
  deriving DecidableEq, Repr

/-- The machine at a command boundary. -/
structure State where
  /-- BASE, one byte per port, port 0 first (R10). Its length is `PORT_COUNT`. -/
  base : Bitmap
  /-- WINDOW, one byte per port, port 0 first (R11). -/
  window : Bitmap
  /-- RANK, by channel index (R12); stored, not computed (DESIGN CHOICE, safe: log entry 9). -/
  rank : List (Option Nat)
  /-- ACTIVE_COUNT (R15). -/
  activeCount : Nat
  /-- MODE (R13). -/
  mode : Byte
  /-- PERIOD, the effective period (R14). -/
  period : Half
  /-- `cmd_ready` (R45, R46, R125). -/
  cmdReady : Bool
  /-- The bulk word sampled with the last accepted command (R46, R49), a number (DESIGN CHOICE, safe:
  log entry 2). It stays here until the next acceptance or reset, whatever the command was (DESIGN CHOICE, unsafe for a
  claim that names the field between commands: log entry 16). -/
  wdata : Nat
  /-- The response on the `rsp_*` signals; absent exactly when `rsp_valid` is 0 (R46, R48;
  DESIGN CHOICE, safe: log entry 15). -/
  rsp : Option Response
  /-- MODEL'S OWN: what the environment presents at the coming edges, next one first. DESIGN CHOICE,
  safe: log entry 5. -/
  inputs : List Edge
  /-- MODEL'S OWN: how many undefined bitmaps have been drawn (R99). DESIGN CHOICE, safe: log entry 3. -/
  freeCount : Nat
  deriving DecidableEq, Repr

/-- The faults of the machine. There is none: the block "raises no exception and takes no trap" (R110), every accepted
command completes and responds (R43), and the one undefined result is a free value (R99, log entry 3). The type is empty,
so no step can answer a fault (DEDUCED, unsafe if such a case exists: log entry 11). -/
inductive Fault where
  deriving DecidableEq, Repr

/-- The refusals of the machine. -/
inductive Refusal where
  /-- Raised by `exec` for an instruction that has no meaning yet; safe, since the machine stops. No arm raises it. -/
  | notModelled (mnemonic : String)
  deriving DecidableEq, Repr

/-- The state right after a reset of a block with `ports` ports (R25, R125): every register at the value the spec gives,
`cmd_ready` and `rsp_valid` 0. The sampled bulk word has no reset value in the spec and is 0 here (DESIGN CHOICE,
unsafe: log entry 6); `inputs` and `freeCount` are the model's own (DESIGN CHOICE, safe: log entries 5 and 3). -/
def State.resetPorts (ports : Nat) : State where
  base := List.replicate ports 0#8
  window := List.replicate ports 0#8
  rank := List.replicate (8 * ports) none
  activeCount := 0
  mode := 0#8
  period := 0#16
  cmdReady := false
  wdata := 0
  rsp := none
  inputs := []
  freeCount := 0

/-- The machine right after reset, with the implementation's port count (R25, R125, R6). -/
def State.reset : State := State.resetPorts Config.portCount

end Sys2Proof.Machine
end

