-- ==== Sys2Proof/Machine/Ops.lean ====
section
/-! DEFINITION. The named operations: channel and bit (spec/20_memory.md R31), bulk bus (R32), reads and writes of the
registers, the response (spec/30_encoding.md R48), and what a clock edge does around a command (R46, R125).
TAKING AN EXCEPTION does not exist in this block (spec/60_exceptions.md R110, R115): no state is saved, no mode changes,
and there is no return. Its place is taken by the error response, `answerError`. -/

namespace Sys2Proof.Machine

/-- `PORT_COUNT` of the machine in this state (R6): one BASE register per port. -/
def State.portCount (s : State) : Nat := s.base.length

/-- `N = 8 × PORT_COUNT` (R6). -/
def State.channelCount (s : State) : Nat := 8 * s.portCount

/-! ### Channels and bits (R31) -/

/-- Bit of channel `c` in a bitmap: bit `c mod 8` of port `c div 8` (R31); 0 for a channel that does not exist
(DESIGN CHOICE, safe: log entry 10). -/
def bitAt (bm : Bitmap) (c : Nat) : Bool := (bm.getD (c / 8) 0#8).getLsbD (c % 8)

/-- `base(c)` (R9, R31). -/
def State.baseBit (s : State) (c : Nat) : Bool := bitAt s.base c

/-- `win(c)` (R9, R31). -/
def State.winBit (s : State) (c : Nat) : Bool := bitAt s.window c

/-- `RANK[c]` (R9, R12); `none` outside the table (DESIGN CHOICE, safe: log entry 10). -/
def State.rankOf (s : State) (c : Nat) : Option Nat := s.rank.getD c none

/-- The byte whose bit `b` is `f b`. -/
def byteOfBits (f : Nat → Bool) : Byte := BitVec.ofBoolListLE [f 0, f 1, f 2, f 3, f 4, f 5, f 6, f 7]

/-- The bitmap of `ports` ports whose channel `c` has bit `f c` (R31): `[8p+7 : 8p]` becomes port `p`. -/
def ofChannels (ports : Nat) (f : Nat → Bool) : Bitmap :=
  (List.range ports).map fun p => byteOfBits fun b => f (8 * p + b)

/-! ### The bulk buses (R32) -/

/-- A bitmap as a bulk word: port `p` at bits `8p+7 : 8p` (R32). -/
def busWord : Bitmap → Nat
  | [] => 0
  | v :: vs => v.toNat + 256 * busWord vs

/-- The first `ports` bytes of a bulk word, least significant (port 0) first (R32). -/
def ofBusWord : Nat → Nat → Bitmap
  | 0, _ => []
  | ports + 1, w => BitVec.ofNat 8 w :: ofBusWord ports (w / 256)

/-! ### Register writes -/

/-- `BASE[p] <- v` for every port (R66). -/
def State.storeBase (s : State) (bm : Bitmap) : State := { s with base := bm }

/-- `BASE[port] <- v`, the other ports keep their values (R67). -/
def State.storePort (s : State) (port : Nat) (v : Byte) : State := { s with base := s.base.set port v }

/-- `MODE <- mode`, all eight bits (R65). -/
def State.storeMode (s : State) (mode : Byte) : State := { s with mode := mode }

/-- `PERIOD <- period` (R68, R85). The argument is a number; R7 shows that none the rules produce needs more than
16 bits, and another would be cut (DESIGN CHOICE, safe: log entry 10). -/
def State.storePeriod (s : State) (period : Nat) : State := { s with period := BitVec.ofNat 16 period }

/-- `WINDOW[p] <- v` for every port (R90, R93). -/
def State.storeWindow (s : State) (bm : Bitmap) : State := { s with window := bm }

/-! ### The undefined bitmap (R99) -/

/-- The undefined bitmap of this draw: a free value, one byte per port (R99; DESIGN CHOICE, safe: log entry 3). -/
def State.freeWindow (s : State) : Bitmap := (List.range s.portCount).map (Config.freeWindowByte s.freeCount)

/-- Advance the draw counter, so that the next undefined bitmap is a fresh one. -/
def State.drawn (s : State) : State := { s with freeCount := s.freeCount + 1 }

/-! ### The response (R48) -/

/-- `rsp_status` as bits (R48). -/
def Status.code : Status → BitVec 2
  | .ok => 0#2
  | .illegal => 1#2
  | .portRange => 2#2

/-- `respond(status, rval, rdata)` (R48). -/
def State.respond (s : State) (status : Status) (rval : Half) (rdata : Nat) : State :=
  { s with rsp := some ⟨status, rval, rdata⟩ }

/-- The answer to a command that cannot be executed: a non-zero status, `rval` = `rdata` = 0, and no state changed
(R110, R111). -/
def State.answerError (s : State) (status : Status) : State := s.respond status 0#16 0

/-! ### Clock edges (R46, R125) -/

/-- Acceptance of a command (R46): `wdata` is sampled (the bus has `8 × PORT_COUNT` bits; DESIGN
CHOICE, safe: log entry 2), the edge is consumed, and the
response of the command before is no longer on the signals (`rsp_valid` is 1 for exactly one cycle). The sampled word
stays in State after the command ends, also where the command ignores `wdata`: R46 says only when it is sampled, and R22
keeps no record of past commands (DESIGN CHOICE, unsafe for a claim that names the field between commands: log entry 16). -/
def State.accept (s : State) (wdata : Nat) (rest : List Edge) : State :=
  { s with wdata := wdata % 2 ^ (8 * s.portCount), inputs := rest, rsp := none }

/-- An edge with `rst` = 0 at which no command is accepted: no register changes (R38, R113), `rsp_valid` falls (R46), and
`cmd_ready` is 1 from the first such edge after a reset (R125; DEDUCED: log entries 4 and 7). -/
def State.idle (s : State) (rest : List Edge) : State := { s with inputs := rest, rsp := none, cmdReady := true }

/-- An edge with `rst` = 1 (R125): every piece of state takes its reset value, and the port count, being no state, stays.
A command accepted and not yet answered when `rst` rises is dropped without a trace (R126), so in a model whose commands
are atomic a reset is one more step. What the environment will present is not the block's to reset, and the draw counter
goes on so that later draws are fresh (DEDUCED, safe: log entry 7). -/
def State.takeReset (s : State) (rest : List Edge) : State :=
  { State.resetPorts s.portCount with inputs := rest, freeCount := s.freeCount }

/-- What one edge does before any command is executed (R46, R125): an accepted command word with the state that has
sampled it, or no command and the state after the edge. A command is accepted only when `cmd_ready` is 1; until then the
environment keeps presenting it (DESIGN CHOICE, safe: log entry 5). With nothing listed in `inputs` the environment presents nothing. -/
def State.edge (s : State) : Option CmdWord × State :=
  match s.inputs with
  | [] => (none, s.idle [])
  | .quiet :: rest => (none, s.idle rest)
  | .reset :: rest => (none, s.takeReset rest)
  | .present cmd wdata :: rest =>
    if s.cmdReady then (some cmd, s.accept wdata rest) else (none, s.idle (.present cmd wdata :: rest))

/-- The same state with a command word presented at the coming edge, and the port ready for it. -/
def State.presenting (s : State) (cmd : CmdWord) (wdata : Nat) : State :=
  { s with cmdReady := true, inputs := .present cmd wdata :: s.inputs }

end Sys2Proof.Machine
end

