-- ==== Sys2Proof/Machine/Operands.lean ====
section
/-! DEFINITION. The operand forms as the meanings see them (spec/30_encoding.md R49). The forms M, PB and V are cut from
the command word by the decoder and arrive as arguments, unsigned, none extended or scaled; form N has none; form B takes
the bulk word that was sampled with the command. -/

namespace Sys2Proof.Machine

/-- Form B: the `bitmap` operand, `8 × PORT_COUNT` bits of `wdata`, port `p` at bits `8p+7 : 8p` (R49, R66). -/
def State.bitmapOperand (s : State) : Bitmap := ofBusWord s.portCount s.wdata

/-- Form PB: the `port` operand as a port index, 0 to 255, not yet checked (R49, R51). -/
def portOperand (port : Byte) : Nat := port.toNat

/-- Form V: the operand as one unsigned number, 0 to 65535 (R49). -/
def valueOperand (value : Half) : Nat := value.toNat

end Sys2Proof.Machine
end

