-- ==== Sys2Proof/Machine/Flags.lean ====
section
/-! DEFINITION. Flags. The block has no status flag and no condition code, and no command writes one
(spec/10_state.md R21). The two mode flags of MODE (R13) are read here. -/

namespace Sys2Proof.Machine

/-- `S`, subtractive: bit 0 of a MODE value (R13). -/
def modeS (mode : Byte) : Bool := mode.getLsbD 0

/-- `A`, actuate-off-outside-window: bit 1 of a MODE value (R13). -/
def modeA (mode : Byte) : Bool := mode.getLsbD 1

/-- `S = MODE[0]` (R9, R13). -/
def State.flagS (s : State) : Bool := modeS s.mode

/-- `A = MODE[1]` (R9, R13). -/
def State.flagA (s : State) : Bool := modeA s.mode

/-- `S` counted as 0 or 1 (R17, R84). -/
def State.countS (s : State) : Nat := s.flagS.toNat

end Sys2Proof.Machine
end

