-- ==== Sys2Proof/Machine/RankMapper.lean ====
section
/-! DEFINITION. The active-rank-to-slot mapper (spec/41_rank_mapper.md): `derive` (R80), the micro-operations
DERIVE_RANKS (R81), `floor` (R84), REVALIDATE_PERIOD (R85), and the slot of a rank (R86, R87). -/

namespace Sys2Proof.Machine

/-- The inner loop of `derive` (R80) over one port: visit bits `k-1` down to 0 of `v`, `n` ranks being already given.
`done` holds the ranks of the higher bits, lowest first, so that visiting from the top leaves the port's ranks in channel
order. -/
def scanPort (v : Byte) : Nat → Nat → List (Option Nat) → List (Option Nat) × Nat
  | 0, n, done => (done, n)
  | k + 1, n, done =>
    if v.getLsbD k then scanPort v k (n + 1) (some n :: done) else scanPort v k n (none :: done)

/-- The outer loop of `derive` (R80): ports upward, `n` ranks being already given. -/
def deriveFrom : Bitmap → Nat → List (Option Nat) × Nat
  | [], n => ([], n)
  | v :: vs, n =>
    let here := scanPort v 8 n []
    let rest := deriveFrom vs here.2
    (here.1 ++ rest.1, rest.2)

/-- `derive(BASE)`: the rank table by channel index, and the number of ranked channels (R80). -/
def derive (base : Bitmap) : List (Option Nat) × Nat := deriveFrom base 0

/-- The channel that scan position `k` visits: `8 × (k div 8) + (7 − k mod 8)` (R33). -/
def scanChannel (k : Nat) : Nat := 8 * (k / 8) + (7 - k % 8)

/-- `DERIVE_RANKS()`: `(RANK, ACTIVE_COUNT) <- derive(BASE)` (R81). -/
def State.deriveRanks (s : State) : State :=
  { s with rank := (derive s.base).1, activeCount := (derive s.base).2 }

/-- `floor() = ACTIVE_COUNT + S` (R84). -/
def State.floor (s : State) : Nat := s.activeCount + s.countS

/-- `REVALIDATE_PERIOD()`: `PERIOD <- max(PERIOD, floor())` (R85). -/
def State.revalidatePeriod (s : State) : State := s.storePeriod (max s.period.toNat s.floor)

/-- `active_offset = PERIOD − ACTIVE_COUNT`, in the integers (R86, R91). -/
def State.activeOffset (s : State) : Int := (s.period.toNat : Int) - s.activeCount

/-- `slot(r) = active_offset + r` (R87). -/
def State.slotOf (s : State) (r : Nat) : Int := s.activeOffset + r

end Sys2Proof.Machine
end

