-- ==== Sys2Proof/Machine/ControlPlane.lean ====
section
/-! DEFINITION. The control-plane commands (spec/40_control_plane.md): CONFIGURE, SET_BASE_STATES, SET_BASE_STATE,
SET_PERIOD, GET_BASE_STATES. Each mutator writes its own register first, derives the ranks if it wrote BASE, then
re-validates the period (R70). -/

namespace Sys2Proof.Machine

/-- CONFIGURE `mode` (R65). Ranks are not derived again: they depend on BASE alone (90 C4). -/
def execConfigure (mode : Byte) (s : State) : Host.Outcome State Fault Refusal :=
  .next ((s.storeMode mode).revalidatePeriod.respond .ok 0#16 0)

/-- SET_BASE_STATES, bitmap on `wdata` (R66). -/
def execSetBaseStates (s : State) : Host.Outcome State Fault Refusal :=
  .next ((s.storeBase s.bitmapOperand).deriveRanks.revalidatePeriod.respond .ok 0#16 0)

/-- SET_BASE_STATE `port`, `byte` (R67): PORT_RANGE and no state change when `port ≥ PORT_COUNT` (R111). -/
def execSetBaseState (port byte : Byte) (s : State) : Host.Outcome State Fault Refusal :=
  .next (if s.portCount ≤ portOperand port then s.answerError .portRange
    else (s.storePort (portOperand port) byte).deriveRanks.revalidatePeriod.respond .ok 0#16 0)

/-- The state after SET_PERIOD's write, before its response: `PERIOD <- max(requested, floor())` (R68). -/
def State.clampPeriod (s : State) (requested : Half) : State := s.storePeriod (max (valueOperand requested) s.floor)

/-- SET_PERIOD `requested` (R68): `rval` is the new PERIOD. -/
def execSetPeriod (requested : Half) (s : State) : Host.Outcome State Fault Refusal :=
  .next ((s.clampPeriod requested).respond .ok (s.clampPeriod requested).period 0)

/-- GET_BASE_STATES (R69): `rdata` is the BASE word. -/
def execGetBaseStates (s : State) : Host.Outcome State Fault Refusal :=
  .next (s.respond .ok 0#16 (busWord s.base))

end Sys2Proof.Machine
end

