-- ==== Sys2Proof/Machine/Window.lean ====
section
/-! DEFINITION. The window bitmap generator and channel isolator (spec/42_window_generator.md): COMPUTE_WINDOW. -/

namespace Sys2Proof.Machine

/-- Step 1a applies (R90): more than one active channel, and slot `w` is in the measurement region. -/
def State.inMeasurement (s : State) (w : Nat) : Bool :=
  decide (1 < s.activeCount) && decide (s.activeOffset ≤ w)

/-- Step 1b applies, step 1a not applying (R90, R97): more than one active channel, `A` set, and `w < active_offset − S`,
the literal boundary. -/
def State.inForcedOff (s : State) (w : Nat) : Bool :=
  decide (1 < s.activeCount) && s.flagA && decide ((w : Int) < s.activeOffset - s.countS)

/-- Channel `c` is the isolated one of slot `w`: `RANK[c] = some r` and `w = active_offset + r` (R90, R94). -/
def State.isolated (s : State) (w c : Nat) : Bool :=
  match s.rankOf c with
  | some r => decide ((w : Int) = s.slotOf r)
  | none => false

/-- The bit of channel `c` in slot `w`, `w < PERIOD` (R90). -/
def State.windowBit (s : State) (w c : Nat) : Bool :=
  if s.inMeasurement w then (if s.isolated w c then !s.flagS else s.flagS && s.baseBit c)
  else if s.inForcedOff w then false
  else s.baseBit c

/-- The bitmap of slot `w`, `w < PERIOD`: every bit of every port (R90, R93). -/
def State.windowBitmap (s : State) (w : Nat) : Bitmap := ofChannels s.portCount (s.windowBit w)

/-- `WINDOW <- out`, `respond(OK, 0, out)` (R90, R48): `rdata` is the new WINDOW word. -/
def State.latchWindow (s : State) (out : Bitmap) : State := (s.storeWindow out).respond .ok 0#16 (busWord out)

/-- COMPUTE_WINDOW `window_index` (R90). With `window_index ≥ PERIOD` the bitmap is undefined: the block answers OK, the
bitmap is a free value, and nothing but WINDOW is written (R99, R112; DESIGN CHOICE, unsafe
where firmware could write more: log entry 3). -/
def execComputeWindow (windowIndex : Half) (s : State) : Host.Outcome State Fault Refusal :=
  .next (if valueOperand windowIndex < s.period.toNat then s.latchWindow (s.windowBitmap (valueOperand windowIndex))
    else s.drawn.latchWindow s.freeWindow)

end Sys2Proof.Machine
end

