-- ==== Sys2Proof/Machine/Dispatch.lean ====
section
/-! DEFINITION. One arm per command, each one call of its meaning (spec/30_encoding.md R50). -/

namespace Sys2Proof.Machine

def exec (i : Instr) (s : State) : Host.Outcome State Fault Refusal :=
  match i with
  | .configure mode => Sys2Proof.Machine.execConfigure mode s
  | .setBaseStates => Sys2Proof.Machine.execSetBaseStates s
  | .setBaseState port byte => Sys2Proof.Machine.execSetBaseState port byte s
  | .setPeriod requested => Sys2Proof.Machine.execSetPeriod requested s
  | .getBaseStates => Sys2Proof.Machine.execGetBaseStates s
  | .computeWindow windowIndex => Sys2Proof.Machine.execComputeWindow windowIndex s

end Sys2Proof.Machine
end

