-- ==== Sys2Proof/Machine/Fetch.lean ====
section
/-! DEFINITION. From an accepted command word to its execution (spec/30_encoding.md R51, R55, spec/60_exceptions.md
R114). The block fetches nothing (spec/10_state.md R20): words are presented to it. -/

namespace Sys2Proof.Machine

/-- Execute an accepted command word: decoding comes first, then execution (R51, R114); a word that is no command is
answered ILLEGAL and changes nothing (R55). -/
def runWord (cmd : CmdWord) (s : State) : Host.Outcome State Fault Refusal :=
  match decode cmd with
  | .ok i => exec i s
  | .error _ => .next (s.answerError .illegal)

end Sys2Proof.Machine
end

