-- ==== Sys2Proof/Machine/Step.lean ====
section
/-! DEFINITION. One step: one rising edge of `clk` at a command boundary (spec/30_encoding.md R46, spec/20_memory.md R38,
R39). An accepted command is executed, committed and answered within the step that accepts it, because the block models no
time (spec/70_reset_and_hazards.md R139; DEDUCED, unsafe for `cmd_ready` between command boundaries: log entry 4). -/

namespace Sys2Proof.Machine

/-- One edge: the accepted command, if there is one, runs (R46, R51); otherwise the state after the edge stands. -/
def step (s : State) : Host.Outcome State Fault Refusal :=
  match s.edge with
  | (some cmd, t) => runWord cmd t
  | (none, t) => .next t

/-- The state in which the very next step accepts and runs the command word with bits `w`, bulk word 0: the environment
presents it at the coming edge, and `cmd_ready` is 1 (DESIGN CHOICE, safe: log entry 5). Every command is one 32-bit word (R56), so bits above
32 do not exist. -/
def State.withFetchWord (s : State) (nbits w : Nat) : State :=
  s.presenting (BitVec.ofNat 32 (w % 2 ^ nbits)) 0

end Sys2Proof.Machine
end

