-- ==== Sys2Proof/WellFormed.lean ====
section
/-! DEFINITION. Which operands fit their fields. An `Instr` carries its operand widths in its types, so every `Instr` is
well formed; the check is made where numerals of any size can be written, in a line of assembly (spec/30_encoding.md
R57): "The assembler refuses an operand that does not fit its field". -/

namespace Sys2Proof

/-- A command as written in assembly (R57): mnemonic and numerals, of any size. -/
inductive Source where
  | configure (mode : Nat)
  | setBaseStates (bitmap : Nat)
  | setBaseState (port byte : Nat)
  | setPeriod (requested : Nat)
  | getBaseStates
  | computeWindow (windowIndex : Nat)
  deriving DecidableEq, Repr

/-- R57: a `<mode>`, `<port>` or `<byte>` above 255, a `<requested>` or `<window_index>` above 65535, a `<bitmap>` of more
than `8 × PORT_COUNT` bits is refused; `<port>` is not checked against `PORT_COUNT`, nor `<window_index>` against the
period. -/
def Source.wellFormed (ports : Nat) : Source → Bool
  | .configure mode => decide (mode ≤ 255)
  | .setBaseStates bitmap => decide (bitmap < 2 ^ (8 * ports))
  | .setBaseState port byte => decide (port ≤ 255) && decide (byte ≤ 255)
  | .setPeriod requested => decide (requested ≤ 65535)
  | .getBaseStates => true
  | .computeWindow windowIndex => decide (windowIndex ≤ 65535)

end Sys2Proof
end

