-- ==== Sys2Proof/Machine/Assembler.lean ====
section
/-! DEFINITION. The textual form of a command and of its expected response (spec/30_encoding.md R57). There are no
pseudo-instructions (R58). No step of the machine reads text.
Details R57 does not say are DESIGN CHOICE, safe: log entry 13. -/

namespace Sys2Proof.Machine

/-- The command a source line stands for; meaningful when the operands fit (`Source.wellFormed`). -/
def sourceInstr : Source → Instr
  | .configure mode => .configure (BitVec.ofNat 8 mode)
  | .setBaseStates _ => .setBaseStates
  | .setBaseState port byte => .setBaseState (BitVec.ofNat 8 port) (BitVec.ofNat 8 byte)
  | .setPeriod requested => .setPeriod (BitVec.ofNat 16 requested)
  | .getBaseStates => .getBaseStates
  | .computeWindow windowIndex => .computeWindow (BitVec.ofNat 16 windowIndex)

/-- The bulk word that goes with a source line (R57); 0 where `wdata` is ignored. -/
def sourceBulk : Source → Nat
  | .setBaseStates bitmap => bitmap
  | _ => 0

/-- What the assembler presents to a block of `ports` ports: exactly one command word (R58), or nothing when an operand
does not fit its field (R57). -/
def assemble (ports : Nat) (src : Source) : Option Edge :=
  if src.wellFormed ports then some (.present (encode (sourceInstr src)) (sourceBulk src)) else none

/-- An expected response, `-> …` (R57). -/
inductive Expect where
  | ok
  | value (n : Nat)
  | illegal
  | portRange
  deriving DecidableEq, Repr

/-- A line of assembly text (R57). -/
inductive AsmLine where
  | blank
  | command (src : Source)
  | expect (e : Expect)
  deriving DecidableEq, Repr

/-- Whether a response to `src` is the expected one (R57): `-> ok` is status OK from a command with no value,
`-> <rval>` belongs to SET_PERIOD, `-> <rdata>` to GET_BASE_STATES and COMPUTE_WINDOW. -/
def expectHolds (src : Source) (e : Expect) (r : Response) : Bool :=
  match e with
  | .illegal => r.status == .illegal
  | .portRange => r.status == .portRange
  | .ok =>
    match src with
    | .configure _ | .setBaseStates _ | .setBaseState _ _ => r.status == .ok
    | .setPeriod _ | .getBaseStates | .computeWindow _ => false
  | .value n =>
    match src with
    | .setPeriod _ => r.status == .ok && r.rval.toNat == n
    | .getBaseStates | .computeWindow _ => r.status == .ok && r.rdata == n
    | .configure _ | .setBaseStates _ | .setBaseState _ _ => false

def isBlankChar (c : Char) : Bool := c == ' ' || c == '\t' || c == '\r' || c == '\n'

def trimText (cs : List Char) : List Char := ((cs.dropWhile isBlankChar).reverse.dropWhile isBlankChar).reverse

/-- A comment runs from `;` to the end of the line (R57). -/
def dropComment (cs : List Char) : List Char := cs.takeWhile (· != ';')

def splitAtCommas : List Char → List (List Char)
  | [] => [[]]
  | c :: cs =>
    if c == ',' then [] :: splitAtCommas cs
    else
      match splitAtCommas cs with
      | [] => [[c]]
      | piece :: pieces => (c :: piece) :: pieces

def digitValue (c : Char) : Option Nat :=
  if 48 ≤ c.toNat ∧ c.toNat ≤ 57 then some (c.toNat - 48)
  else if 97 ≤ c.toNat ∧ c.toNat ≤ 102 then some (c.toNat - 87)
  else if 65 ≤ c.toNat ∧ c.toNat ≤ 70 then some (c.toNat - 55)
  else none

def readDigits (radix : Nat) : Nat → List Char → Option Nat
  | acc, [] => some acc
  | acc, c :: cs =>
    match digitValue c with
    | some d => if d < radix then readDigits radix (acc * radix + d) cs else none
    | none => none

/-- A numeral: decimal, or hexadecimal with `0x`, or binary with `0b` (R57). -/
def readNumeral (cs : List Char) : Option Nat :=
  if cs.isEmpty then none
  else if cs.take 2 == ['0', 'x'] ∧ 2 < cs.length then readDigits 16 0 (cs.drop 2)
  else if cs.take 2 == ['0', 'b'] ∧ 2 < cs.length then readDigits 2 0 (cs.drop 2)
  else readDigits 10 0 cs

def readOperands (cs : List Char) : Option (List Nat) :=
  if (trimText cs).isEmpty then some [] else (splitAtCommas cs).mapM fun piece => readNumeral (trimText piece)

/-- A mnemonic with its operands (R57); no other mnemonic exists (R58). -/
def readSource (mnemonic : List Char) (operands : List Nat) : Option Source :=
  match operands with
  | [] => if mnemonic = "get_base_states".toList then some .getBaseStates else none
  | [a] =>
    if mnemonic = "configure".toList then some (.configure a)
    else if mnemonic = "set_base_states".toList then some (.setBaseStates a)
    else if mnemonic = "set_period".toList then some (.setPeriod a)
    else if mnemonic = "compute_window".toList then some (.computeWindow a)
    else none
  | [a, b] => if mnemonic = "set_base_state".toList then some (.setBaseState a b) else none
  | _ => none

def readExpect (cs : List Char) : Option Expect :=
  if cs = "ok".toList then some .ok
  else if cs = "ILLEGAL".toList then some .illegal
  else if cs = "PORT_RANGE".toList then some .portRange
  else (readNumeral cs).map .value

/-- One line of assembly text (R57); `none` where it is none. -/
def readLine (line : List Char) : Option AsmLine :=
  let cs := trimText (dropComment line)
  if cs.isEmpty then some .blank
  else if cs.take 2 = ['-', '>'] then (readExpect (trimText (cs.drop 2))).map .expect
  else
    match readOperands (cs.dropWhile fun c => !isBlankChar c) with
    | some operands => (readSource (cs.takeWhile fun c => !isBlankChar c) operands).map .command
    | none => none

end Sys2Proof.Machine
end

