-- ==== Sys2Proof/Machine/Outputs.lean ====
section
/-! DEFINITION. The output signals at a command boundary (spec/10_state.md R19, spec/30_encoding.md R45, R46).
Signals that have no value while `rsp_valid` is 0 are absent there (DESIGN CHOICE, safe: log entry 15). -/

namespace Sys2Proof.Machine

/-- `window_o` (R19). -/
def State.windowO (s : State) : Nat := busWord s.window

/-- `period_o` (R19). -/
def State.periodO (s : State) : Half := s.period

/-- `active_count_o`: ACTIVE_COUNT zero-extended to 16 bits (R19). -/
def State.activeCountO (s : State) : Half := BitVec.ofNat 16 s.activeCount

/-- `cmd_ready` (R45, R46). -/
def State.cmdReadyO (s : State) : Bool := s.cmdReady

/-- `rsp_valid` (R45, R46). -/
def State.rspValidO (s : State) : Bool := s.rsp.isSome

/-- `rsp_status`; no value while `rsp_valid` is 0 (R46, U7). -/
def State.rspStatusO (s : State) : Option (BitVec 2) := s.rsp.map fun r => r.status.code

/-- `rsp_rval`; no value while `rsp_valid` is 0 (R46, U7). -/
def State.rspRvalO (s : State) : Option Half := s.rsp.map Response.rval

/-- `rsp_rdata`; no value while `rsp_valid` is 0 (R46, U7). -/
def State.rspRdataO (s : State) : Option Nat := s.rsp.map Response.rdata

end Sys2Proof.Machine
end

