-- ==== Sys2Proof/Machine/Environment.lean ====
section
/-! DEFINITION. The reference Timing Driver (spec/70_reset_and_hazards.md R130, R136, decision D12) and the boot sequence
(R127): the environment, which is outside the block and outside State (spec/10_state.md R20, R22). No step of the machine
depends on it; a statement about every command stream covers every driver. When the driver learns the
period is DESIGN CHOICE, safe: log entry 14. -/

namespace Sys2Proof.Machine

/-- The driver's slot counter and the period it has been told (R136). -/
structure Driver where
  slot : Nat
  period : Nat
  deriving DecidableEq, Repr

/-- The driver is told a period and wraps its counter against the new one before the next query (R136). -/
def driverLearn (d : Driver) (period : Half) : Driver :=
  { slot := if d.slot < period.toNat then d.slot else 0, period := period.toNat }

/-- `slot <- slot + 1`, and `slot <- 0` when `slot` reaches the period it has been told (R136). -/
def driverAdvance (d : Driver) : Driver :=
  { d with slot := if d.slot + 1 < d.period then d.slot + 1 else 0 }

/-- What the driver presents: `compute_window slot` (R136), and nothing while the period it has been told is 0 (R134). -/
def driverEdge (d : Driver) : Edge :=
  if d.period = 0 then .quiet else .present (encode (.computeWindow (BitVec.ofNat 16 d.slot))) 0

/-- One turn of the reference environment between mutations: learn the period from `period_o` (R72), query, advance. -/
def driverTurn (d : Driver) (s : State) : Edge × Driver :=
  (driverEdge (driverLearn d s.periodO), driverAdvance (driverLearn d s.periodO))

/-- The boot sequence (R127): CONFIGURE, SET_BASE_STATES, then SET_PERIOD. -/
def bootEdges (mode : Byte) (bitmap : Nat) (requested : Half) : List Edge :=
  [.present (encode (.configure mode)) 0, .present (encode .setBaseStates) bitmap,
   .present (encode (.setPeriod requested)) 0]

/-- What the boot sequence issues before SET_PERIOD where BASE is written port by port (R127): CONFIGURE, and one
SET_BASE_STATE for each port of `bitmap`. R127 allows any order of these. -/
def bootCommandsByPort (mode : Byte) (bitmap : Bitmap) : List Instr :=
  .configure mode ::
    (List.range bitmap.length).map fun p => .setBaseState (BitVec.ofNat 8 p) (bitmap.getD p 0#8)

end Sys2Proof.Machine
end

