-- ==== Sys2Proof/Safety.lean ====
section
/-! DEFINITION. The invariants of the machine (spec/10_state.md R16, R17), and what counts as a safe run: one in which the
caller keeps the contract of spec/70_reset_and_hazards.md (R132, R137) and spec/93_implementation_defined.md (U1 to U4).
The block enforces none of it; a claim that must hold of the firmware too takes safety as a premise (DESIGN CHOICE,
unsafe for the firmware: log entry 8). -/

namespace Sys2Proof.Machine

/-- The sizes of the register files agree with a port count between 1 and 256 (R6, R10 to R12), and the sampled bulk word
fits the bus (R45). -/
abbrev State.Shape (s : State) : Prop :=
  1 ≤ s.portCount ∧ s.portCount ≤ 256 ∧ s.window.length = s.portCount ∧ s.rank.length = s.channelCount ∧
    s.wdata < 2 ^ (8 * s.portCount)

/-- The rank invariant (R16): RANK and ACTIVE_COUNT are `derive(BASE)`. -/
abbrev State.RanksDerived (s : State) : Prop := (s.rank, s.activeCount) = derive s.base

/-- The period invariant (R17): `PERIOD ≥ ACTIVE_COUNT + S`. -/
abbrev State.PeriodCovers (s : State) : Prop := s.activeCount + s.countS ≤ s.period.toNat

/-- The invariant of every command boundary (R16, R17), with the sizes of R6. -/
abbrev State.Inv (s : State) : Prop := s.Shape ∧ s.RanksDerived ∧ s.PeriodCovers

/-- A breach of the caller's contract that 93 asks a model to name. -/
inductive Violation where
  /-- COMPUTE_WINDOW with `window_index ≥ PERIOD` (R99, R132, U1). -/
  | windowIndexOutOfRange
  /-- SET_BASE_STATE with `port ≥ PORT_COUNT` (R111, U3). -/
  | portOutOfRange
  /-- CONFIGURE with bits 7:2 of `mode` not all zero (R137, U2). -/
  | modeNotMasked
  /-- A word that is no command (R55, U4). -/
  | illegalWord
  deriving DecidableEq, Repr

/-- The breach that executing `i` in `s` is, if it is one. -/
def violation (i : Instr) (s : State) : Option Violation :=
  match i with
  | .configure mode => if mode.toNat < 4 then none else some .modeNotMasked
  | .setBaseStates => none
  | .setBaseState port _ => if port.toNat < s.portCount then none else some .portOutOfRange
  | .setPeriod _ => none
  | .getBaseStates => none
  | .computeWindow windowIndex => if windowIndex.toNat < s.period.toNat then none else some .windowIndexOutOfRange

/-- The breach of the coming step, if it is one. -/
def stepViolation (s : State) : Option Violation :=
  match s.edge with
  | (none, _) => none
  | (some cmd, t) =>
    match decode cmd with
    | .ok i => violation i t
    | .error _ => some .illegalWord

/-- None of the next `k` steps breaches the caller's contract. -/
def safeRun : Nat → State → Bool
  | 0, _ => true
  | k + 1, s =>
    (stepViolation s).isNone &&
      match step s with
      | .next t => safeRun k t
      | .fault _ => false
      | .refused _ => false

end Sys2Proof.Machine
end

