-- ==== Sys2Proof/Certificates/Slice0/Obligations.lean ====
section
/-! DEFINITION. The statements about the model, taken from the numbered rules of spec/. `s.Inv` is the invariant of every
command boundary (R16, R17, with the sizes of R6); `StepKeepsTheInvariant` and `ResetHoldsTheInvariant` state it. A state
written `{ s with … }` is `s` but for the fields named: every other register, `cmd_ready`, the sampled bulk word and what the
environment will present are unchanged. The sampled bulk word that such an equation keeps, or takes from the edge, is a field
of the model's that outlives its command by the model's choice (log entry 16), and no rule is cited for it. -/

open Sys2Proof Sys2Proof.Machine

/-- The words R55 and R111 call illegal, in numbers cut from the word: `op` unused, `rsv` not zero, or a must-be-zero part of
`arg` not zero. -/
def Sys2Proof.Machine.IllegalByTheRule (w : CmdWord) : Prop :=
  w.toNat / 2 ^ 28 = 0 ∨ 7 ≤ w.toNat / 2 ^ 28 ∨ w.toNat / 2 ^ 16 % 2 ^ 12 ≠ 0 ∨
    (w.toNat / 2 ^ 28 = 1 ∧ w.toNat / 2 ^ 8 % 2 ^ 8 ≠ 0) ∨
    ((w.toNat / 2 ^ 28 = 2 ∨ w.toNat / 2 ^ 28 = 5) ∧ w.toNat % 2 ^ 16 ≠ 0)

/-! ### Encoding -/

/-- Decode of encode is the command, for every command and every operand value (R47, R49 to R51). -/
def Obligations.DecodeOfEncodeIsTheCommand : Prop := ∀ i : Instr, decode (encode i) = .ok i

/-- A word that decodes is the word of its command: no word has a bit the decoder drops (R50, R51). -/
def Obligations.EncodeOfDecodedIsTheWord : Prop := ∀ (w : CmdWord) (i : Instr), decode w = .ok i → encode i = w

/-- R55: which words are illegal, and what an accepted illegal word does. -/
def Obligations.IllegalWordsChangeNothing : Prop :=
  (∀ w : CmdWord, (∃ e, decode w = .error e) ↔ IllegalByTheRule w) ∧
  ∀ (s : State) (cmd : CmdWord) (wdata : Nat) (rest : List Edge),
    s.inputs = .present cmd wdata :: rest → s.cmdReady = true → IllegalByTheRule cmd →
    step s = .next { s with inputs := rest, wdata := wdata % 2 ^ (8 * s.portCount), rsp := some ⟨.illegal, 0#16, 0⟩ }

/-- Words written out from the patterns of R50 and the vectors of spec/95 (sanity). -/
def Obligations.TableWordsDecode : Prop :=
  decode 0b00010000000000000000000000000001#32 = .ok (.configure 0x01#8) ∧
  decode 0b00100000000000000000000000000000#32 = .ok .setBaseStates ∧
  decode 0b00110000000000000000000100010000#32 = .ok (.setBaseState 0x01#8 0x10#8) ∧
  decode 0b01000000000000001111111111111111#32 = .ok (.setPeriod 0xFFFF#16) ∧
  decode 0b01010000000000000000000000000000#32 = .ok .getBaseStates ∧
  decode 0b01100000000000000000000100000010#32 = .ok (.computeWindow 0x0102#16)

/-- R57: an assembly line whose operands fit gives one word that decodes to its command with its operands as written;
one whose operands do not fit is refused. -/
def Obligations.AssembledLinesDecodeAsWritten : Prop :=
  ∀ ports : Nat,
    (∀ src : Source, src.wellFormed ports = false → assemble ports src = none) ∧
    (∀ mode ≤ 255, ∃ w m, assemble ports (.configure mode) = some (.present w 0) ∧
      decode w = .ok (.configure m) ∧ m.toNat = mode) ∧
    (∀ bitmap < 2 ^ (8 * ports), ∃ w, assemble ports (.setBaseStates bitmap) = some (.present w bitmap) ∧
      decode w = .ok .setBaseStates) ∧
    (∀ port ≤ 255, ∀ byte ≤ 255, ∃ w p b, assemble ports (.setBaseState port byte) = some (.present w 0) ∧
      decode w = .ok (.setBaseState p b) ∧ p.toNat = port ∧ b.toNat = byte) ∧
    (∀ requested ≤ 65535, ∃ w v, assemble ports (.setPeriod requested) = some (.present w 0) ∧
      decode w = .ok (.setPeriod v) ∧ v.toNat = requested) ∧
    (∃ w, assemble ports .getBaseStates = some (.present w 0) ∧ decode w = .ok .getBaseStates) ∧
    (∀ index ≤ 65535, ∃ w v, assemble ports (.computeWindow index) = some (.present w 0) ∧
      decode w = .ok (.computeWindow v) ∧ v.toNat = index)

/-! ### The step -/

/-- An accepted word that decodes to `i` makes the step `exec i`, at the state that has sampled `wdata`, consumed the edge
and dropped the response before (R46, R51). -/
def Obligations.StepRunsTheDecodedCommand : Prop :=
  ∀ (s : State) (cmd : CmdWord) (wdata : Nat) (rest : List Edge) (i : Instr),
    s.inputs = .present cmd wdata :: rest → s.cmdReady = true → decode cmd = .ok i →
    step s = exec i { s with inputs := rest, wdata := wdata % 2 ^ (8 * s.portCount), rsp := none }

/-- At an edge with no reset and no acceptance no register moves; `rsp_valid` falls and `cmd_ready` is 1 after it. A command
presented while `cmd_ready` is 0 stays presented (R38, R46, R113, R125). -/
def Obligations.EdgeWithoutCommandMovesNoRegister : Prop :=
  ∀ s : State,
    (s.inputs = [] → step s = .next { s with rsp := none, cmdReady := true }) ∧
    (∀ rest, s.inputs = .quiet :: rest → step s = .next { s with inputs := rest, rsp := none, cmdReady := true }) ∧
    (∀ cmd wdata rest, s.inputs = .present cmd wdata :: rest → s.cmdReady = false →
      step s = .next { s with rsp := none, cmdReady := true })

/-- Every edge completes; an accepted command is answered in the same step and leaves the port ready, and no response is
on the signals after any other edge (R43, R46). -/
def Obligations.EveryAcceptedCommandIsAnswered : Prop :=
  (∀ (s : State) (cmd : CmdWord) (wdata : Nat) (rest : List Edge),
    s.inputs = .present cmd wdata :: rest → s.cmdReady = true →
    ∃ t r, step s = .next t ∧ t.rsp = some r ∧ t.inputs = rest ∧ t.cmdReady = true) ∧
  (∀ s : State, (s.cmdReady = false ∨ ∀ cmd wdata rest, s.inputs ≠ .present cmd wdata :: rest) →
    ∃ t, step s = .next t ∧ t.rsp = none)

/-- R110: a response with a status other than OK comes with `rval` = `rdata` = 0, and with every register, the outputs and
the readiness of the port as they were. -/
def Obligations.ErrorsChangeNoState : Prop :=
  ∀ (s t : State) (r : Response), step s = .next t → t.rsp = some r → r.status ≠ .ok →
    t.base = s.base ∧ t.rank = s.rank ∧ t.activeCount = s.activeCount ∧ t.mode = s.mode ∧ t.period = s.period ∧
    t.window = s.window ∧ t.windowO = s.windowO ∧ t.periodO = s.periodO ∧ t.activeCountO = s.activeCountO ∧
    t.cmdReady = s.cmdReady ∧ r.rval = 0#16 ∧ r.rdata = 0

/-- R111: the complete list of error causes. -/
def Obligations.ErrorCausesAreComplete : Prop :=
  ∀ (s : State) (cmd : CmdWord) (wdata : Nat) (rest : List Edge),
    s.inputs = .present cmd wdata :: rest → s.cmdReady = true →
    ∃ t r, step s = .next t ∧ t.rsp = some r ∧
      (r.status = .illegal ↔ IllegalByTheRule cmd) ∧
      (r.status = .portRange ↔ ∃ port byte, decode cmd = .ok (.setBaseState port byte) ∧ s.portCount ≤ port.toNat) ∧
      (r.status ≠ .ok → r.rval = 0#16 ∧ r.rdata = 0)

/-! ### Reset and the invariant -/

/-- R25: what `State.reset` holds, for a port count in the range of R6. The values are the spec's decision D10. -/
def Obligations.ResetValuesAreTheSpecs : Prop :=
  1 ≤ State.reset.portCount ∧ State.reset.portCount ≤ 256 ∧
  State.reset.base = List.replicate State.reset.portCount 0#8 ∧
  State.reset.window = List.replicate State.reset.portCount 0#8 ∧
  State.reset.rank = List.replicate State.reset.channelCount none ∧ State.reset.activeCount = 0 ∧
  State.reset.mode = 0#8 ∧ State.reset.period = 0#16 ∧ State.reset.RanksDerived ∧ State.reset.PeriodCovers

/-- R125: an edge with `rst` = 1, from every state: every register at its reset value, no response, the port not ready, all
channels off on `window_o`; `cmd_ready` is 1 after the next edge without `rst`, at which no command is executed. -/
def Obligations.ResetEdgeClearsTheBlock : Prop :=
  ∀ (s : State) (rest : List Edge), s.inputs = .reset :: rest →
    ∃ t, step s = .next t ∧ t.inputs = rest ∧
      t.base = List.replicate s.portCount 0#8 ∧ t.window = List.replicate s.portCount 0#8 ∧
      t.rank = List.replicate s.channelCount none ∧ t.activeCount = 0 ∧ t.mode = 0#8 ∧ t.period = 0#16 ∧
      t.windowO = 0 ∧ t.rspValidO = false ∧ t.cmdReadyO = false ∧
      ((∀ more, rest ≠ .reset :: more) →
        ∃ u, step t = .next u ∧ u.cmdReadyO = true ∧ u.rspValidO = false ∧ u.base = t.base ∧ u.window = t.window ∧
          u.rank = t.rank ∧ u.activeCount = t.activeCount ∧ u.mode = t.mode ∧ u.period = t.period)

/-- The invariant holds at reset. That the sampled bulk word fits the bus there rests on its reset value 0, the model's
choice (log entry 6). -/
def Obligations.ResetHoldsTheInvariant : Prop := State.reset.Inv ∧ ∀ ports, 1 ≤ ports → ports ≤ 256 → (State.resetPorts ports).Inv

/-- The invariant of every command boundary (R16, R17): every step keeps it, from every state that has it. -/
def Obligations.StepKeepsTheInvariant : Prop := ∀ s t : State, s.Inv → step s = .next t → t.Inv

/-- R6: no command and no reset changes the port count, from every state. -/
def Obligations.PortCountIsFixed : Prop :=
  ∀ s t : State, step s = .next t → t.portCount = s.portCount ∧
    (s.window.length = s.portCount → t.window.length = s.portCount)

/-! ### The rank mapper -/

/-- R80: scanning ports upward and bits downward, an active channel gets the number of active channels scanned before it,
an inactive one gets no rank, and the count is the number of active channels. -/
def Obligations.RanksFollowTheScan : Prop :=
  ∀ base : Bitmap,
    let N := 8 * base.length
    (∀ k < N, (derive base).1.getD (8 * (k / 8) + (7 - k % 8)) none =
      if bitAt base (8 * (k / 8) + (7 - k % 8)) then
        some ((List.range k).countP fun j => bitAt base (8 * (j / 8) + (7 - j % 8)))
      else none) ∧
    (derive base).2 = (List.range N).countP (fun j => bitAt base (8 * (j / 8) + (7 - j % 8)))

/-- The ranking is a bijection from the active channels to `[0, active_count)` (R16, R82 item 1; item 3 with it). -/
def Obligations.RankingIsABijection : Prop :=
  ∀ base : Bitmap,
    (∀ c < 8 * base.length, bitAt base c = false → (derive base).1.getD c none = none) ∧
    (∀ c < 8 * base.length, bitAt base c = true →
      ∃ r, (derive base).1.getD c none = some r ∧ r < (derive base).2) ∧
    (∀ r < (derive base).2, ∃ c, (c < 8 * base.length ∧ bitAt base c = true ∧ (derive base).1.getD c none = some r) ∧
      ∀ d, (derive base).1.getD d none = some r → d = c)

/-- The active count is the population count of the base bitmap (R82 item 2). -/
def Obligations.ActiveCountIsPopulationCount : Prop :=
  ∀ base : Bitmap, (derive base).2 = (List.range (8 * base.length)).countP (bitAt base) ∧
    (derive base).2 ≤ 8 * base.length

/-- Ranks rise along the scan: the lower port first, inside a port the higher bit first (R82 item 5). -/
def Obligations.RanksRiseAlongTheScan : Prop :=
  ∀ (base : Bitmap) (c d r q : Nat), c < 8 * base.length → d < 8 * base.length →
    (c / 8 < d / 8 ∨ (c / 8 = d / 8 ∧ d % 8 < c % 8)) →
    (derive base).1.getD c none = some r → (derive base).1.getD d none = some q → r < q

/-! ### The control plane -/

/-- R65. -/
def Obligations.ConfigureStoresModeAndRevalidates : Prop :=
  ∀ mode : Byte,
    (∀ w, decode w = .ok (.configure mode) ↔ w = 0x10000000#32 ||| mode.setWidth 32) ∧
    ∀ s : State, s.Inv → ∃ p : Half,
      exec (.configure mode) s = .next { s with mode := mode, period := p, rsp := some ⟨.ok, 0#16, 0⟩ } ∧
      p.toNat = max s.period.toNat (s.activeCount + (mode.getLsbD 0).toNat)

/-- R66. -/
def Obligations.SetBaseStatesStoresTheBulkWord : Prop :=
  (∀ w, decode w = .ok .setBaseStates ↔ w = 0x20000000#32) ∧
  ∀ s : State, s.Inv → ∃ (b : Bitmap) (p : Half),
    exec .setBaseStates s = .next { s with
      base := b, rank := (derive b).1, activeCount := (derive b).2, period := p, rsp := some ⟨.ok, 0#16, 0⟩ } ∧
    b.length = s.portCount ∧ (∀ q < s.portCount, (b.getD q 0#8).toNat = s.wdata / 2 ^ (8 * q) % 256) ∧
    p.toNat = max s.period.toNat ((derive b).2 + s.flagS.toNat)

/-- R67. -/
def Obligations.SetBaseStateStoresOnePort : Prop :=
  ∀ port byte : Byte,
    (∀ w, decode w = .ok (.setBaseState port byte) ↔
      w = 0x30000000#32 ||| (port.setWidth 32 <<< 8) ||| byte.setWidth 32) ∧
    ∀ s : State, s.Inv →
      if s.portCount ≤ port.toNat then
        exec (.setBaseState port byte) s = .next { s with rsp := some ⟨.portRange, 0#16, 0⟩ }
      else ∃ (b : Bitmap) (p : Half),
        exec (.setBaseState port byte) s = .next { s with
          base := b, rank := (derive b).1, activeCount := (derive b).2, period := p, rsp := some ⟨.ok, 0#16, 0⟩ } ∧
        b.length = s.portCount ∧
        (∀ q < s.portCount, b.getD q 0#8 = if q = port.toNat then byte else s.base.getD q 0#8) ∧
        p.toNat = max s.period.toNat ((derive b).2 + s.flagS.toNat)

/-- R68, with its law. -/
def Obligations.SetPeriodClampsUpward : Prop :=
  ∀ requested : Half,
    (∀ w, decode w = .ok (.setPeriod requested) ↔ w = 0x40000000#32 ||| requested.setWidth 32) ∧
    ∀ s : State, s.Inv → ∃ p : Half,
      exec (.setPeriod requested) s = .next { s with period := p, rsp := some ⟨.ok, p, 0⟩ } ∧
      p.toNat = max requested.toNat (s.activeCount + s.flagS.toNat) ∧
      s.activeCount + s.flagS.toNat ≤ p.toNat ∧ (s.activeCount + s.flagS.toNat ≤ requested.toNat → p = requested)

/-- R69: the BASE word, port `p` at bits `8p+7 : 8p`, from every state. -/
def Obligations.GetBaseStatesReadsBack : Prop :=
  (∀ w, decode w = .ok .getBaseStates ↔ w = 0x50000000#32) ∧
  ∀ s : State, ∃ d : Nat,
    exec .getBaseStates s = .next { s with rsp := some ⟨.ok, 0#16, d⟩ } ∧ d < 2 ^ (8 * s.portCount) ∧
    ∀ p < s.portCount, d / 2 ^ (8 * p) % 256 = (s.base.getD p 0#8).toNat

/-- What SET_BASE_STATES wrote GET_BASE_STATES returns (R69 corner case c). -/
def Obligations.BulkWriteReadsBack : Prop :=
  ∀ s : State, s.Inv → ∃ t u, exec .setBaseStates s = .next t ∧ exec .getBaseStates t = .next u ∧
    u.rsp = some ⟨.ok, 0#16, s.wdata⟩

/-- The byte SET_BASE_STATE writes to a port is that port's byte of the word GET_BASE_STATES returns, and the other bytes of
that word are as before (R32, R67). -/
def Obligations.PortWriteReadsBack : Prop :=
  ∀ (s : State) (port byte : Byte), port.toNat < s.portCount →
    ∃ t u d e, exec (.setBaseState port byte) s = .next t ∧ exec .getBaseStates t = .next u ∧
      u.rsp = some ⟨.ok, 0#16, d⟩ ∧ exec .getBaseStates s = .next { s with rsp := some ⟨.ok, 0#16, e⟩ } ∧
      d / 2 ^ (8 * port.toNat) % 256 = byte.toNat ∧
      ∀ q < s.portCount, q ≠ port.toNat → d / 2 ^ (8 * q) % 256 = e / 2 ^ (8 * q) % 256

/-- SET_BASE_STATE is SET_BASE_STATES with the old BASE word, that port's byte replaced (R67 corner case d). -/
def Obligations.PortWriteIsABulkWrite : Prop :=
  ∀ (s : State) (port byte : Byte), port.toNat < s.portCount →
    ∃ t, exec (.setBaseState port byte) s = .next t ∧
      exec .setBaseStates { s with wdata := busWord (s.base.set port.toNat byte) } =
        .next { t with wdata := busWord (s.base.set port.toNat byte) }

/-- Issuing a command twice in a row leaves the state, and gives the response, of issuing it once; for COMPUTE_WINDOW where
the index is in the period (R36). -/
def Obligations.CommandsAreIdempotent : Prop :=
  ∀ (s : State) (i : Instr), s.Inv → (∀ w, i = .computeWindow w → w.toNat < s.period.toNat) →
    ∃ t, exec i s = .next t ∧ exec i t = .next t

/-- PERIOD is lowered by SET_PERIOD and by reset only (R14, R85). -/
def Obligations.OnlySetPeriodLowersThePeriod : Prop :=
  ∀ s t : State, s.Inv → step s = .next t → t.period.toNat < s.period.toNat →
    (∃ rest, s.inputs = .reset :: rest) ∨
    ∃ cmd wdata rest requested, s.inputs = .present cmd wdata :: rest ∧ decode cmd = .ok (.setPeriod requested)

/-- The write matrix (R23): which command may write which register, from every state. -/
def Obligations.EachRegisterHasItsWriters : Prop :=
  ∀ (s t : State) (i : Instr), exec i s = .next t →
    ((t.base = s.base ∧ t.rank = s.rank ∧ t.activeCount = s.activeCount) ∨ i = .setBaseStates ∨
      ∃ port byte, i = .setBaseState port byte) ∧
    (t.mode = s.mode ∨ ∃ mode, i = .configure mode) ∧
    (i = .getBaseStates ∨ (∃ w, i = .computeWindow w) → t.period = s.period) ∧
    (t.window = s.window ∨ ∃ w, i = .computeWindow w)

/-- After the boot sequence, in either order of its first two commands, the configuration depends on the operands alone
(R127). -/
def Obligations.BootFixesTheConfiguration : Prop :=
  ∀ (s : State) (mode : Byte) (bitmap : Nat) (requested : Half) (first second : Edge) (rest : List Edge),
    s.Inv → s.cmdReady = true →
    ((first = .present (encode (.configure mode)) 0 ∧ second = .present (encode .setBaseStates) bitmap) ∨
     (first = .present (encode .setBaseStates) bitmap ∧ second = .present (encode (.configure mode)) 0)) →
    s.inputs = first :: second :: .present (encode (.setPeriod requested)) 0 :: rest →
    ∃ a b t, step s = .next a ∧ step a = .next b ∧ step b = .next t ∧ t.inputs = rest ∧
      t.mode = mode ∧ t.portCount = s.portCount ∧ (∀ c < s.channelCount, t.baseBit c = bitmap.testBit c) ∧
      (t.rank, t.activeCount) = derive t.base ∧
      t.period.toNat = max requested.toNat (t.activeCount + (mode.getLsbD 0).toNat) ∧
      t.rsp = some ⟨.ok, t.period, 0⟩

/-- The boot sequence with one SET_BASE_STATE per port (R127): CONFIGURE and the port writes in any order, whatever is on
`wdata`, then SET_PERIOD. -/
def Obligations.BootPortByPortFixesTheConfiguration : Prop :=
  ∀ (s : State) (mode : Byte) (bitmap : Bitmap) (requested : Half) (cmds : List (Instr × Nat)) (wdata : Nat)
    (rest : List Edge),
    s.Inv → s.cmdReady = true → bitmap.length = s.portCount →
    (cmds.map Prod.fst).Perm (bootCommandsByPort mode bitmap) →
    s.inputs = (cmds.map fun c => Edge.present (encode c.1) c.2) ++
      .present (encode (.setPeriod requested)) wdata :: rest →
    ∃ t : State, core.run (s.portCount + 2) s = .next t ∧ t.inputs = rest ∧ t.mode = mode ∧ t.base = bitmap ∧
      (t.rank, t.activeCount) = derive bitmap ∧
      t.period.toNat = max requested.toNat (t.activeCount + (mode.getLsbD 0).toNat) ∧
      t.rsp = some ⟨.ok, t.period, 0⟩

/-! ### The window generator. Below `n` is ACTIVE_COUNT and `T` is PERIOD; `T ≤ w + n` says that slot `w` is at or after
`active_offset = T − n`. -/

/-- R90, for every slot of the period. -/
def Obligations.ComputeWindowFollowsTheAlgorithm : Prop :=
  ∀ w : Half,
    (∀ cmd, decode cmd = .ok (.computeWindow w) ↔ cmd = 0x60000000#32 ||| w.setWidth 32) ∧
    ∀ s : State, s.Inv → w.toNat < s.period.toNat →
      let n := s.activeCount
      let T := s.period.toNat
      ∃ (out : Bitmap) (d : Nat),
        exec (.computeWindow w) s = .next { s with window := out, rsp := some ⟨.ok, 0#16, d⟩ } ∧
        out.length = s.portCount ∧ d < 2 ^ (8 * s.portCount) ∧
        ∀ c < s.channelCount, d.testBit c = bitAt out c ∧
          bitAt out c =
            if 1 < n ∧ T ≤ w.toNat + n then
              (if s.rankOf c = some (w.toNat + n - T) then !s.flagS else s.flagS && s.baseBit c)
            else if 1 < n ∧ s.flagA = true ∧ w.toNat + n + s.flagS.toNat < T then false
            else s.baseBit c

/-- R94: the per-channel rule of the measurement region. -/
def Obligations.MeasurementSlotIsolatesOneChannel : Prop :=
  ∀ (s : State) (w : Half), s.Inv → 1 < s.activeCount → w.toNat < s.period.toNat →
    s.period.toNat ≤ w.toNat + s.activeCount →
    ∃ t c, exec (.computeWindow w) s = .next t ∧ c < s.channelCount ∧
      s.rankOf c = some (w.toNat + s.activeCount - s.period.toNat) ∧ s.baseBit c = true ∧ t.winBit c = !s.flagS ∧
      ∀ d < s.channelCount, d ≠ c →
        s.rankOf d ≠ some (w.toNat + s.activeCount - s.period.toNat) ∧ t.winBit d = (s.flagS && s.baseBit d)

/-- The bitmap of a measurement slot as a whole (R95, R102): the base word with one bit cleared in subtractive mode, that one
bit alone otherwise; on `window_o` and as the response. -/
def Obligations.MeasurementWordIsOneChannelApart : Prop :=
  ∀ (s : State) (w : Half), s.Inv → 1 < s.activeCount → w.toNat < s.period.toNat →
    s.period.toNat ≤ w.toNat + s.activeCount →
    ∃ t c, exec (.computeWindow w) s = .next t ∧ c < s.channelCount ∧
      s.rankOf c = some (w.toNat + s.activeCount - s.period.toNat) ∧
      (s.flagS = true → t.windowO + 2 ^ c = busWord s.base) ∧ (s.flagS = false → t.windowO = 2 ^ c) ∧
      t.rsp = some ⟨.ok, 0#16, t.windowO⟩

/-- Across the measurement region of one period every active channel is isolated exactly once, in the slot of its rank, and
no inactive channel ever; isolated means that the window bit differs from `S AND base` (R101, R87). -/
def Obligations.EveryActiveChannelIsolatedOnce : Prop :=
  ∀ s : State, s.Inv → 1 < s.activeCount →
    let Isolates := fun (w : Half) (c : Nat) =>
      s.period.toNat ≤ w.toNat + s.activeCount ∧ w.toNat < s.period.toNat ∧
        ∃ t, exec (.computeWindow w) s = .next t ∧ t.winBit c ≠ (s.flagS && s.baseBit c)
    (∀ c < s.channelCount, s.baseBit c = true →
      ∃ r w, s.rankOf c = some r ∧ w.toNat = s.period.toNat - s.activeCount + r ∧ Isolates w c ∧
        ∀ v, Isolates v c → v = w) ∧
    (∀ c < s.channelCount, s.baseBit c = false → ∀ w, ¬ Isolates w c)

/-- R97 and R98: before the measurement region the window is all off exactly where `A` is set and the slot is before the
literal boundary `active_offset − S`, and the base bitmap otherwise; so the guard slot shows the base bitmap. -/
def Obligations.SlotsBeforeMeasurementFollowTheBoundary : Prop :=
  ∀ (s : State) (w : Half), s.Inv → 1 < s.activeCount → w.toNat + s.activeCount < s.period.toNat →
    (s.flagA = true ∧ w.toNat + s.activeCount + s.flagS.toNat < s.period.toNat →
      exec (.computeWindow w) s =
        .next { s with window := List.replicate s.portCount 0#8, rsp := some ⟨.ok, 0#16, 0⟩ }) ∧
    (s.flagA = false ∨ s.period.toNat ≤ w.toNat + s.activeCount + s.flagS.toNat →
      exec (.computeWindow w) s = .next { s with window := s.base, rsp := some ⟨.ok, 0#16, busWord s.base⟩ })

/-- R96: with at most one active channel every slot is the base bitmap, under any mode and period; all off with none. -/
def Obligations.FewActiveChannelsPassThrough : Prop :=
  ∀ (s : State) (w : Half), s.Inv → s.activeCount ≤ 1 → w.toNat < s.period.toNat →
    exec (.computeWindow w) s = .next { s with window := s.base, rsp := some ⟨.ok, 0#16, busWord s.base⟩ } ∧
    (s.activeCount = 0 → busWord s.base = 0) ∧ (s.activeCount = 1 → s.floor = 1 + s.flagS.toNat)

/-- R99: an index outside the period is not detected: OK, some bitmap that nothing says anything about, and every other
register unchanged. `k` is the model's own draw counter (log entry 3); `out` and `d` are what the spec gives no value. -/
def Obligations.IndexOutOfRangeMovesOnlyTheWindow : Prop :=
  ∀ (s : State) (w : Half), s.period.toNat ≤ w.toNat →
    ∃ (out : Bitmap) (d k : Nat),
      exec (.computeWindow w) s = .next { s with window := out, rsp := some ⟨.ok, 0#16, d⟩, freeCount := k } ∧
      out.length = s.portCount ∧ d < 2 ^ (8 * s.portCount)

/-- R100: the result of COMPUTE_WINDOW depends on the index, BASE, the two mode flags and PERIOD alone. -/
def Obligations.WindowDependsOnConfigurationAlone : Prop :=
  ∀ (s u : State) (w : Half), s.Inv → u.Inv → w.toNat < s.period.toNat →
    u.base = s.base → u.period = s.period → u.mode.getLsbD 0 = s.mode.getLsbD 0 → u.mode.getLsbD 1 = s.mode.getLsbD 1 →
    ∃ t v, exec (.computeWindow w) s = .next t ∧ exec (.computeWindow w) u = .next v ∧ v.window = t.window ∧ v.rsp = t.rsp

/-! ### Outputs and environment -/

/-- R19: the three status outputs. -/
def Obligations.StatusOutputsShowTheState : Prop :=
  ∀ s : State, s.Inv →
    s.windowO < 2 ^ (8 * s.portCount) ∧
    (∀ p < s.portCount, s.windowO / 2 ^ (8 * p) % 256 = (s.window.getD p 0#8).toNat) ∧
    s.periodO = s.period ∧ s.activeCountO.toNat = s.activeCount

/-- R132, R136: a driver that wraps against the period it reads from `period_o` asks only for slots of that period, and
asks for nothing while the period is 0; its counter then names a slot of the period again. -/
def Obligations.DriverAsksForSlotsOfThePeriod : Prop :=
  ∀ (d : Driver) (s : State),
    (s.period.toNat = 0 → (driverTurn d s).1 = .quiet) ∧
    (s.period.toNat ≠ 0 →
      (∃ w : Half, (driverTurn d s).1 = .present (encode (.computeWindow w)) 0 ∧ w.toNat < s.period.toNat) ∧
      (driverTurn d s).2.slot < s.period.toNat)

/-- A step in which the caller keeps the contract that 93 names (U1 to U4) takes no undefined bitmap, and a response it gives
is OK. The draw counter is the model's own (log entry 3). -/
def Obligations.SafeStepsAnswerDefinedResults : Prop :=
  ∀ s t : State, stepViolation s = none → step s = .next t →
    t.freeCount = s.freeCount ∧ ∀ r, t.rsp = some r → r.status = .ok
end

