-- ==== Sys2Proof/Laws/Bits.lean ====
section
/-! SUPPORT. Channels, bitmaps and bulk words (spec/20_memory.md R31, R32): what each of the operations over them gives,
bit by bit. -/

namespace Sys2Proof.Machine

theorem byteOfBits_bit (f : Nat → Bool) (b : Nat) (h : b < 8) : (byteOfBits f).getLsbD b = f b := by
  unfold byteOfBits
  rw [BitVec.getLsbD_ofBoolListLE]
  interval_cases b <;> rfl

@[simp] theorem ofChannels_length (ports : Nat) (f : Nat → Bool) : (ofChannels ports f).length = ports := by
  simp [ofChannels]

/-- A channel of the bitmap built from `f` has the bit `f` gives it. -/
theorem bitAt_ofChannels (ports : Nat) (f : Nat → Bool) (c : Nat) (h : c < 8 * ports) :
    bitAt (ofChannels ports f) c = f c := by
  have hp : c / 8 < ports := by omega
  have hb : c % 8 < 8 := by omega
  simp only [bitAt, ofChannels, List.getD_eq_getElem?_getD, List.getElem?_map, List.getElem?_range hp, Option.map_some,
    Option.getD_some, byteOfBits_bit _ _ hb]
  congr 1
  omega

/-- A channel that does not exist has bit 0. -/
theorem bitAt_of_ge (bm : Bitmap) (c : Nat) (h : 8 * bm.length ≤ c) : bitAt bm c = false := by
  have hp : bm.length ≤ c / 8 := by omega
  simp [bitAt, List.getD_eq_getElem?_getD, List.getElem?_eq_none hp]

theorem bitAt_cons_low (v : Byte) (vs : Bitmap) (c : Nat) (h : c < 8) : bitAt (v :: vs) c = v.getLsbD c := by
  have h0 : c / 8 = 0 := by omega
  have h1 : c % 8 = c := by omega
  simp [bitAt, h0, h1]

theorem bitAt_cons_high (v : Byte) (vs : Bitmap) (c : Nat) : bitAt (v :: vs) (c + 8) = bitAt vs c := by
  have h0 : (c + 8) / 8 = c / 8 + 1 := by omega
  have h1 : (c + 8) % 8 = c % 8 := by omega
  simp [bitAt, h0, h1]

/-- Bitmaps of one length that agree on every channel are equal. -/
theorem bitmap_ext (a b : Bitmap) (hl : a.length = b.length)
    (h : ∀ c, c < 8 * a.length → bitAt a c = bitAt b c) : a = b := by
  induction a generalizing b with
  | nil => cases b with
    | nil => rfl
    | cons => simp at hl
  | cons v vs ih =>
    cases b with
    | nil => simp at hl
    | cons w ws =>
      have hv : v = w := by
        apply BitVec.eq_of_getLsbD_eq
        intro i hi
        have := h i (by simp; omega)
        rwa [bitAt_cons_low _ _ _ hi, bitAt_cons_low _ _ _ hi] at this
      have hs : vs = ws := by
        apply ih ws (by simpa using hl)
        intro c hc
        have := h (c + 8) (by simp; omega)
        rwa [bitAt_cons_high, bitAt_cons_high] at this
      rw [hv, hs]

/-- A bitmap is the one built from its own bits. -/
theorem ofChannels_bitAt (bm : Bitmap) : ofChannels bm.length (bitAt bm) = bm := by
  apply bitmap_ext _ _ (by simp)
  intro c hc
  exact bitAt_ofChannels _ _ _ (by simpa using hc)

theorem ofChannels_congr (ports : Nat) (f g : Nat → Bool) (h : ∀ c, c < 8 * ports → f c = g c) :
    ofChannels ports f = ofChannels ports g := by
  apply bitmap_ext _ _ (by simp)
  intro c hc
  rw [ofChannels_length] at hc
  rw [bitAt_ofChannels _ _ _ hc, bitAt_ofChannels _ _ _ hc, h c hc]

/-- `BASE[port] <- v`: the channels of that port take the bits of `v`, the others keep theirs. -/
theorem bitAt_set (bm : Bitmap) (port : Nat) (v : Byte) (c : Nat) (h : port < bm.length) :
    bitAt (bm.set port v) c = if c / 8 = port then v.getLsbD (c % 8) else bitAt bm c := by
  by_cases hc : c / 8 = port
  · simp [bitAt, List.getD_eq_getElem?_getD, hc, h]
  · have : port ≠ c / 8 := fun e => hc e.symm
    simp [bitAt, List.getD_eq_getElem?_getD, List.getElem?_set_ne this, hc]

/-- A bulk word has `8 × PORT_COUNT` bits. -/
theorem busWord_lt (bm : Bitmap) : busWord bm < 2 ^ (8 * bm.length) := by
  induction bm with
  | nil => simp [busWord]
  | cons v vs ih =>
    have hv := v.isLt
    have : 2 ^ (8 * (v :: vs).length) = 256 * 2 ^ (8 * vs.length) := by
      rw [List.length_cons, Nat.mul_add, Nat.pow_add]; omega
    rw [this, busWord]
    omega

/-- Bit `c` of the bulk word is channel `c` (R32). -/
theorem busWord_testBit (bm : Bitmap) (c : Nat) : (busWord bm).testBit c = bitAt bm c := by
  induction bm generalizing c with
  | nil => simp [busWord, bitAt]
  | cons v vs ih =>
    have hv := v.isLt
    by_cases h : c < 8
    · rw [bitAt_cons_low _ _ _ h, busWord, show (256 : Nat) = 2 ^ 8 from rfl, Nat.add_comm,
        Nat.testBit_two_pow_mul_add _ hv, if_pos h, BitVec.testBit_toNat]
    · obtain ⟨d, rfl⟩ : ∃ d, c = d + 8 := ⟨c - 8, by omega⟩
      rw [bitAt_cons_high, ← ih, busWord, show (256 : Nat) = 2 ^ 8 from rfl, Nat.add_comm,
        Nat.testBit_two_pow_mul_add _ hv, if_neg h, Nat.add_sub_cancel]

@[simp] theorem ofBusWord_length (ports : Nat) (w : Nat) : (ofBusWord ports w).length = ports := by
  induction ports generalizing w with
  | zero => rfl
  | succ n ih => simp [ofBusWord, ih]

/-- Channel `c` of a bitmap taken from a bulk word is bit `c` of the word (R32). -/
theorem bitAt_ofBusWord (ports : Nat) (w : Nat) (c : Nat) (h : c < 8 * ports) :
    bitAt (ofBusWord ports w) c = w.testBit c := by
  induction ports generalizing w c with
  | zero => omega
  | succ n ih =>
    rw [ofBusWord]
    by_cases hc : c < 8
    · rw [bitAt_cons_low _ _ _ hc, BitVec.getLsbD_ofNat]
      simp [hc]
    · obtain ⟨d, rfl⟩ : ∃ d, c = d + 8 := ⟨c - 8, by omega⟩
      rw [bitAt_cons_high, ih _ _ (by omega), show (256 : Nat) = 2 ^ 8 from rfl, Nat.testBit_div_two_pow, Nat.add_comm]

theorem ofBusWord_busWord (bm : Bitmap) : ofBusWord bm.length (busWord bm) = bm := by
  apply bitmap_ext _ _ (by simp)
  intro c hc
  rw [ofBusWord_length] at hc
  rw [bitAt_ofBusWord _ _ _ hc, busWord_testBit]

theorem busWord_zeros (ports : Nat) : busWord (List.replicate ports 0#8) = 0 := by
  induction ports with
  | zero => rfl
  | succ n ih => simp [List.replicate_succ, busWord, ih]

@[simp] theorem freeWindow_length (s : State) : s.freeWindow.length = s.portCount := by
  simp [State.freeWindow]

end Sys2Proof.Machine
end

