-- ==== Sys2Proof/Laws/Decode.lean ====
section
/-! SUPPORT. The decoder in terms of the fields of the command word (spec/30_encoding.md R47, R50), and the fields of an
encoded command. -/

namespace Sys2Proof

theorem append_eq_append_iff {m n : Nat} (a c : BitVec m) (b d : BitVec n) : a ++ b = c ++ d ↔ a = c ∧ b = d := by
  constructor
  · intro h
    have h1 := congrArg (BitVec.extractLsb' n m) h
    have h2 := congrArg (BitVec.extractLsb' 0 n) h
    simp only [BitVec.extractLsb'_append_eq_left, BitVec.extractLsb'_append_eq_right] at h1 h2
    exact ⟨h1, h2⟩
  · rintro ⟨rfl, rfl⟩
    rfl

/-- A command word is its three fields (R47). -/
theorem cmd_fields (w : CmdWord) : cmdOp w ++ (cmdRsv w ++ cmdArg w) = w := by
  have h1 : cmdRsv w ++ cmdArg w = w.extractLsb' 0 28 := BitVec.extractLsb'_append_extractLsb'_eq_extractLsb' rfl
  have h2 : cmdOp w ++ w.extractLsb' 0 28 = w.extractLsb' 0 32 := BitVec.extractLsb'_append_extractLsb'_eq_extractLsb' rfl
  rw [h1, h2]
  exact BitVec.extractLsb'_eq_self

/-- `arg` is its two bytes (R49). -/
theorem arg_fields (w : CmdWord) : cmdArgHigh w ++ cmdArgLow w = cmdArg w :=
  BitVec.extractLsb'_append_extractLsb'_eq_extractLsb' rfl

/-- The fields as numbers cut from the word's number. -/
theorem cmd_fields_toNat (w : CmdWord) :
    (cmdOp w).toNat = w.toNat / 2 ^ 28 ∧ (cmdRsv w).toNat = w.toNat / 2 ^ 16 % 2 ^ 12 ∧
      (cmdArg w).toNat = w.toNat % 2 ^ 16 ∧ (cmdArgHigh w).toNat = w.toNat / 2 ^ 8 % 2 ^ 8 ∧
      (cmdArgLow w).toNat = w.toNat % 2 ^ 8 := by
  have := w.isLt
  simp only [cmdOp, cmdRsv, cmdArg, cmdArgHigh, cmdArgLow, BitVec.extractLsb'_toNat, Nat.shiftRight_eq_div_pow]
  norm_num
  omega

theorem eq_append_iff_fields (w : CmdWord) (op : BitVec 4) (rsv : BitVec 12) (arg : Half) :
    w = op ++ (rsv ++ arg) ↔ cmdOp w = op ∧ cmdRsv w = rsv ∧ cmdArg w = arg := by
  conv_lhs => rw [← cmd_fields w]
  rw [append_eq_append_iff, append_eq_append_iff]

theorem arg_eq_append_iff (w : CmdWord) (hi lo : Byte) :
    cmdArg w = hi ++ lo ↔ cmdArgHigh w = hi ∧ cmdArgLow w = lo := by
  rw [← arg_fields, append_eq_append_iff]

/-- The word of `op` and `arg` is the one with these fields and `rsv` = 0. -/
theorem eq_cmdWord_iff (w : CmdWord) (op : BitVec 4) (arg : Half) :
    w = cmdWord op arg ↔ cmdOp w = op ∧ cmdRsv w = 0#12 ∧ cmdArg w = arg := eq_append_iff_fields w op 0#12 arg

@[simp] theorem cmdOp_cmdWord (op : BitVec 4) (arg : Half) : cmdOp (cmdWord op arg) = op :=
  ((eq_cmdWord_iff _ op arg).1 rfl).1

@[simp] theorem cmdRsv_cmdWord (op : BitVec 4) (arg : Half) : cmdRsv (cmdWord op arg) = 0#12 :=
  ((eq_cmdWord_iff _ op arg).1 rfl).2.1

@[simp] theorem cmdArg_cmdWord (op : BitVec 4) (arg : Half) : cmdArg (cmdWord op arg) = arg :=
  ((eq_cmdWord_iff _ op arg).1 rfl).2.2

@[simp] theorem cmdArgHigh_cmdWord (op : BitVec 4) (hi lo : Byte) : cmdArgHigh (cmdWord op (hi ++ lo)) = hi :=
  ((arg_eq_append_iff _ hi lo).1 (cmdArg_cmdWord _ _)).1

@[simp] theorem cmdArgLow_cmdWord (op : BitVec 4) (hi lo : Byte) : cmdArgLow (cmdWord op (hi ++ lo)) = lo :=
  ((arg_eq_append_iff _ hi lo).1 (cmdArg_cmdWord _ _)).2

/-- A mask over `op` and `rsv` fixes `op` and makes `rsv` zero. -/
theorem select_op_rsv (w : CmdWord) (op : BitVec 4) :
    w &&& 0xFFFF0000#32 = cmdWord op 0#16 ↔ cmdOp w = op ∧ cmdRsv w = 0#12 := by
  conv_lhs => rw [← cmd_fields w, show (0xFFFF0000#32) = BitVec.allOnes 4 ++ (BitVec.allOnes 12 ++ 0#16) by decide, cmdWord]
  rw [BitVec.and_append, BitVec.and_append, append_eq_append_iff, append_eq_append_iff]
  simp only [BitVec.and_allOnes, BitVec.and_zero, and_true]

/-- A mask over all but `arg[7:0]` also makes `arg[15:8]` zero. -/
theorem select_op_rsv_high (w : CmdWord) (op : BitVec 4) :
    w &&& 0xFFFFFF00#32 = cmdWord op 0#16 ↔ cmdOp w = op ∧ cmdRsv w = 0#12 ∧ cmdArgHigh w = 0#8 := by
  conv_lhs =>
    rw [← cmd_fields w, ← arg_fields w,
      show (0xFFFFFF00#32) = BitVec.allOnes 4 ++ (BitVec.allOnes 12 ++ (BitVec.allOnes 8 ++ 0#8)) by decide,
      cmdWord, show (0#16) = (0#8 ++ 0#8 : BitVec 16) by decide]
  rw [BitVec.and_append, BitVec.and_append, BitVec.and_append, append_eq_append_iff, append_eq_append_iff,
    append_eq_append_iff]
  simp only [BitVec.and_allOnes, BitVec.and_zero, and_true]

/-- A mask over the whole word fixes it. -/
theorem select_all (w : CmdWord) (op : BitVec 4) :
    w &&& 0xFFFFFFFF#32 = cmdWord op 0#16 ↔ cmdOp w = op ∧ cmdRsv w = 0#12 ∧ cmdArg w = 0#16 := by
  rw [show (0xFFFFFFFF#32) = BitVec.allOnes 32 by decide, BitVec.and_allOnes, eq_cmdWord_iff]

/-- The decoder, field by field (R50, R51). -/
theorem decode_fields (w : CmdWord) : decode w =
    if cmdOp w = 1#4 ∧ cmdRsv w = 0#12 ∧ cmdArgHigh w = 0#8 then .ok (.configure (cmdArgLow w))
    else if cmdOp w = 2#4 ∧ cmdRsv w = 0#12 ∧ cmdArg w = 0#16 then .ok .setBaseStates
    else if cmdOp w = 3#4 ∧ cmdRsv w = 0#12 then .ok (.setBaseState (cmdArgHigh w) (cmdArgLow w))
    else if cmdOp w = 4#4 ∧ cmdRsv w = 0#12 then .ok (.setPeriod (cmdArg w))
    else if cmdOp w = 5#4 ∧ cmdRsv w = 0#12 ∧ cmdArg w = 0#16 then .ok .getBaseStates
    else if cmdOp w = 6#4 ∧ cmdRsv w = 0#12 then .ok (.computeWindow (cmdArg w))
    else .error (illegalCause w) := by
  simp only [← select_op_rsv, ← select_op_rsv_high, ← select_all, decode, opcodeRows, OpcodeRow.selects, List.find?_cons,
    List.find?_nil]
  rw [show cmdWord 1#4 0#16 = 0x10000000#32 by decide, show cmdWord 2#4 0#16 = 0x20000000#32 by decide,
    show cmdWord 3#4 0#16 = 0x30000000#32 by decide, show cmdWord 4#4 0#16 = 0x40000000#32 by decide,
    show cmdWord 5#4 0#16 = 0x50000000#32 by decide, show cmdWord 6#4 0#16 = 0x60000000#32 by decide]
  simp only [beq_eq_decide]
  split_ifs <;> simp_all

end Sys2Proof
end

