-- ==== Sys2Proof/Laws/PerInstr.lean ====
section
/-! SUPPORT. One lemma per command for each family of statements about all commands. EncodeReserved: the reserved field of
every command word is zero (spec/30_encoding.md R47). -/

namespace Sys2Proof.Laws.EncodeReserved

/-- The field `rsv` of the command's word is zero (R47). -/
def Statement (i : Sys2Proof.Instr) : Prop := Sys2Proof.cmdRsv (Sys2Proof.encode i) = 0#12

theorem configure (mode : Byte) : Statement (.configure mode) := cmdRsv_cmdWord _ _

theorem setBaseStates : Statement .setBaseStates := cmdRsv_cmdWord _ _

theorem setBaseState (port byte : Byte) : Statement (.setBaseState port byte) := cmdRsv_cmdWord _ _

theorem setPeriod (requested : Half) : Statement (.setPeriod requested) := cmdRsv_cmdWord _ _

theorem getBaseStates : Statement .getBaseStates := cmdRsv_cmdWord _ _

theorem computeWindow (windowIndex : Half) : Statement (.computeWindow windowIndex) := cmdRsv_cmdWord _ _

end Sys2Proof.Laws.EncodeReserved
end

