-- ==== Sys2Proof/Laws/RankMapper.lean ====
section
/-! SUPPORT. What `derive` gives (spec/41_rank_mapper.md R80): port by port, the sizes and the closed form. -/

namespace Sys2Proof.Machine

/-- The number of 1 bits of `v` below bit `k`. -/
def onesBelow (v : Byte) : Nat → Nat
  | 0 => 0
  | k + 1 => onesBelow v k + (v.getLsbD k).toNat

/-- The number of 1 bits of a bitmap. -/
def onesOf : Bitmap → Nat
  | [] => 0
  | v :: vs => onesBelow v 8 + onesOf vs

theorem onesBelow_le (v : Byte) (k : Nat) : onesBelow v k ≤ k := by
  induction k with
  | zero => simp [onesBelow]
  | succ k ih => have := Bool.toNat_le (v.getLsbD k); simp only [onesBelow]; omega

theorem onesBelow_mono (v : Byte) {j k : Nat} (h : j ≤ k) : onesBelow v j ≤ onesBelow v k := by
  induction k with
  | zero => simp_all
  | succ k ih =>
    by_cases hj : j = k + 1
    · simp [hj]
    · have := ih (by omega); simp only [onesBelow]; omega

theorem onesOf_le (bm : Bitmap) : onesOf bm ≤ 8 * bm.length := by
  induction bm with
  | nil => simp [onesOf]
  | cons v vs ih => have := onesBelow_le v 8; simp only [onesOf, List.length_cons]; omega

theorem scanPort_count (v : Byte) (k n : Nat) (done : List (Option Nat)) :
    (scanPort v k n done).2 = n + onesBelow v k := by
  induction k generalizing n done with
  | zero => rfl
  | succ k ih =>
    rw [scanPort]
    split <;> rename_i h <;> simp [ih, onesBelow, h]
    omega

theorem scanPort_length (v : Byte) (k n : Nat) (done : List (Option Nat)) :
    (scanPort v k n done).1.length = k + done.length := by
  induction k generalizing n done with
  | zero => simp [scanPort]
  | succ k ih => rw [scanPort]; split <;> simp only [ih, List.length_cons] <;> omega

/-- The ranks of one port: bit `b` below `k` gets the number of 1 bits the scan met before it; what was done stays. -/
theorem scanPort_rank (v : Byte) (k n : Nat) (done : List (Option Nat)) (b : Nat) :
    (scanPort v k n done).1.getD b none =
      if b < k then (if v.getLsbD b then some (n + (onesBelow v k - onesBelow v (b + 1))) else none)
      else done.getD (b - k) none := by
  induction k generalizing n done with
  | zero => simp [scanPort]
  | succ k ih =>
    have hstep : scanPort v (k + 1) n done =
        scanPort v k (n + (v.getLsbD k).toNat) ((if v.getLsbD k then some n else none) :: done) := by
      rw [scanPort]; split <;> rename_i h <;> simp [h]
    rw [hstep, ih]
    rcases Nat.lt_trichotomy b k with hb | hb | hb
    · have hm := onesBelow_mono v (show b + 1 ≤ k by omega)
      rw [if_pos hb, if_pos (show b < k + 1 by omega)]
      have e : n + (v.getLsbD k).toNat + (onesBelow v k - onesBelow v (b + 1)) =
          n + (onesBelow v (k + 1) - onesBelow v (b + 1)) := by
        simp only [onesBelow.eq_2 v k]; omega
      rw [e]
    · subst hb
      simp
    · obtain ⟨d, rfl⟩ : ∃ d, b = k + 1 + d := ⟨b - (k + 1), by omega⟩
      rw [if_neg (show ¬ k + 1 + d < k by omega), if_neg (show ¬ k + 1 + d < k + 1 by omega),
        show k + 1 + d - k = d + 1 by omega, show k + 1 + d - (k + 1) = d by omega, List.getD_cons_succ]

theorem deriveFrom_count (bm : Bitmap) (n : Nat) : (deriveFrom bm n).2 = n + onesOf bm := by
  induction bm generalizing n with
  | nil => rfl
  | cons v vs ih => simp only [deriveFrom, ih, scanPort_count, onesOf]; omega

theorem deriveFrom_length (bm : Bitmap) (n : Nat) : (deriveFrom bm n).1.length = 8 * bm.length := by
  induction bm generalizing n with
  | nil => rfl
  | cons v vs ih => simp only [deriveFrom, List.length_append, ih, scanPort_length, List.length_cons, List.length_nil]; omega

/-- The closed form of R82 item 4: the active channel at bit `b` of port `p` has as rank the 1 bits of the lower ports and
of the higher bits of its own port. -/
theorem deriveFrom_rank (bm : Bitmap) (n p b : Nat) (hp : p < bm.length) (hb : b < 8) :
    (deriveFrom bm n).1.getD (8 * p + b) none =
      if (bm.getD p 0#8).getLsbD b then
        some (n + onesOf (bm.take p) + (onesBelow (bm.getD p 0#8) 8 - onesBelow (bm.getD p 0#8) (b + 1)))
      else none := by
  induction bm generalizing n p with
  | nil => simp at hp
  | cons v vs ih =>
    have hl : (scanPort v 8 n []).1.length = 8 := by simp [scanPort_length]
    cases p with
    | zero =>
      have := scanPort_rank v 8 n [] b
      simp only [deriveFrom, Nat.mul_zero, Nat.zero_add, List.getD_append _ _ _ _ (show b < _ by rw [hl]; exact hb), this,
        if_pos hb, List.getD_cons_zero, List.take_zero, onesOf, Nat.add_zero]
    | succ p =>
      have hp' : p < vs.length := by simpa using hp
      simp only [deriveFrom]
      rw [List.getD_append_right _ _ _ _ (by rw [hl]; omega), hl, show 8 * (p + 1) + b - 8 = 8 * p + b by omega,
        ih _ _ hp', scanPort_count, List.getD_cons_succ, List.take_succ_cons, onesOf]
      congr 2
      omega

theorem derive_length (bm : Bitmap) : (derive bm).1.length = 8 * bm.length := deriveFrom_length bm 0

theorem derive_count (bm : Bitmap) : (derive bm).2 = onesOf bm := by simp [derive, deriveFrom_count]

/-- There are at most `N` active channels (R15). -/
theorem derive_count_le (bm : Bitmap) : (derive bm).2 ≤ 8 * bm.length := by
  rw [derive_count]; exact onesOf_le bm

theorem derive_zeros (ports : Nat) :
    derive (List.replicate ports 0#8) = (List.replicate (8 * ports) none, 0) := by
  suffices h : ∀ n, deriveFrom (List.replicate ports 0#8) n = (List.replicate (8 * ports) none, n) from h 0
  induction ports with
  | zero => intro n; rfl
  | succ k ih =>
    intro n
    have hs : scanPort 0#8 8 n [] = (List.replicate 8 none, n) := by simp [scanPort, List.replicate]
    have hr : List.replicate (8 * (k + 1)) (none : Option Nat) = List.replicate 8 none ++ List.replicate (8 * k) none := by
      rw [← List.replicate_add]; congr 1; omega
    rw [List.replicate_succ, deriveFrom, hs, ih, hr]

/-- What REVALIDATE_PERIOD leaves in PERIOD (R85), where the floor fits the register. -/
theorem revalidatePeriod_toNat (s : State) (h : s.floor < 2 ^ 16) :
    s.revalidatePeriod.period.toNat = max s.period.toNat s.floor := by
  have := s.period.isLt
  simp only [State.revalidatePeriod, State.storePeriod, BitVec.toNat_ofNat]
  omega

end Sys2Proof.Machine
end

