-- ==== Sys2Proof/Laws/State.lean ====
section
/-! SUPPORT. What each update of the state does to each field, and to the accessors that read only fields it leaves alone. -/

namespace Sys2Proof.Machine

/-! ### `storeBase` -/

@[simp] theorem State.storeBase_base (s : State) (bm : Bitmap) : (s.storeBase bm).base = bm := rfl
@[simp] theorem State.storeBase_window (s : State) (bm : Bitmap) : (s.storeBase bm).window = s.window := rfl
@[simp] theorem State.storeBase_rank (s : State) (bm : Bitmap) : (s.storeBase bm).rank = s.rank := rfl
@[simp] theorem State.storeBase_activeCount (s : State) (bm : Bitmap) : (s.storeBase bm).activeCount = s.activeCount := rfl
@[simp] theorem State.storeBase_mode (s : State) (bm : Bitmap) : (s.storeBase bm).mode = s.mode := rfl
@[simp] theorem State.storeBase_period (s : State) (bm : Bitmap) : (s.storeBase bm).period = s.period := rfl
@[simp] theorem State.storeBase_cmdReady (s : State) (bm : Bitmap) : (s.storeBase bm).cmdReady = s.cmdReady := rfl
@[simp] theorem State.storeBase_wdata (s : State) (bm : Bitmap) : (s.storeBase bm).wdata = s.wdata := rfl
@[simp] theorem State.storeBase_rsp (s : State) (bm : Bitmap) : (s.storeBase bm).rsp = s.rsp := rfl
@[simp] theorem State.storeBase_inputs (s : State) (bm : Bitmap) : (s.storeBase bm).inputs = s.inputs := rfl
@[simp] theorem State.storeBase_freeCount (s : State) (bm : Bitmap) : (s.storeBase bm).freeCount = s.freeCount := rfl
@[simp] theorem State.storeBase_flagS (s : State) (bm : Bitmap) : (s.storeBase bm).flagS = s.flagS := rfl
@[simp] theorem State.storeBase_flagA (s : State) (bm : Bitmap) : (s.storeBase bm).flagA = s.flagA := rfl
@[simp] theorem State.storeBase_countS (s : State) (bm : Bitmap) : (s.storeBase bm).countS = s.countS := rfl
@[simp] theorem State.storeBase_floor (s : State) (bm : Bitmap) : (s.storeBase bm).floor = s.floor := rfl
@[simp] theorem State.storeBase_activeOffset (s : State) (bm : Bitmap) : (s.storeBase bm).activeOffset = s.activeOffset := rfl

/-! ### `storePort` -/

@[simp] theorem State.storePort_base (s : State) (port : Nat) (v : Byte) : (s.storePort port v).base = s.base.set port v := rfl
@[simp] theorem State.storePort_window (s : State) (port : Nat) (v : Byte) : (s.storePort port v).window = s.window := rfl
@[simp] theorem State.storePort_rank (s : State) (port : Nat) (v : Byte) : (s.storePort port v).rank = s.rank := rfl
@[simp] theorem State.storePort_activeCount (s : State) (port : Nat) (v : Byte) : (s.storePort port v).activeCount = s.activeCount := rfl
@[simp] theorem State.storePort_mode (s : State) (port : Nat) (v : Byte) : (s.storePort port v).mode = s.mode := rfl
@[simp] theorem State.storePort_period (s : State) (port : Nat) (v : Byte) : (s.storePort port v).period = s.period := rfl
@[simp] theorem State.storePort_cmdReady (s : State) (port : Nat) (v : Byte) : (s.storePort port v).cmdReady = s.cmdReady := rfl
@[simp] theorem State.storePort_wdata (s : State) (port : Nat) (v : Byte) : (s.storePort port v).wdata = s.wdata := rfl
@[simp] theorem State.storePort_rsp (s : State) (port : Nat) (v : Byte) : (s.storePort port v).rsp = s.rsp := rfl
@[simp] theorem State.storePort_inputs (s : State) (port : Nat) (v : Byte) : (s.storePort port v).inputs = s.inputs := rfl
@[simp] theorem State.storePort_freeCount (s : State) (port : Nat) (v : Byte) : (s.storePort port v).freeCount = s.freeCount := rfl
@[simp] theorem State.storePort_flagS (s : State) (port : Nat) (v : Byte) : (s.storePort port v).flagS = s.flagS := rfl
@[simp] theorem State.storePort_flagA (s : State) (port : Nat) (v : Byte) : (s.storePort port v).flagA = s.flagA := rfl
@[simp] theorem State.storePort_countS (s : State) (port : Nat) (v : Byte) : (s.storePort port v).countS = s.countS := rfl
@[simp] theorem State.storePort_floor (s : State) (port : Nat) (v : Byte) : (s.storePort port v).floor = s.floor := rfl
@[simp] theorem State.storePort_activeOffset (s : State) (port : Nat) (v : Byte) : (s.storePort port v).activeOffset = s.activeOffset := rfl

/-! ### `storeMode` -/

@[simp] theorem State.storeMode_base (s : State) (m : Byte) : (s.storeMode m).base = s.base := rfl
@[simp] theorem State.storeMode_window (s : State) (m : Byte) : (s.storeMode m).window = s.window := rfl
@[simp] theorem State.storeMode_rank (s : State) (m : Byte) : (s.storeMode m).rank = s.rank := rfl
@[simp] theorem State.storeMode_activeCount (s : State) (m : Byte) : (s.storeMode m).activeCount = s.activeCount := rfl
@[simp] theorem State.storeMode_mode (s : State) (m : Byte) : (s.storeMode m).mode = m := rfl
@[simp] theorem State.storeMode_period (s : State) (m : Byte) : (s.storeMode m).period = s.period := rfl
@[simp] theorem State.storeMode_cmdReady (s : State) (m : Byte) : (s.storeMode m).cmdReady = s.cmdReady := rfl
@[simp] theorem State.storeMode_wdata (s : State) (m : Byte) : (s.storeMode m).wdata = s.wdata := rfl
@[simp] theorem State.storeMode_rsp (s : State) (m : Byte) : (s.storeMode m).rsp = s.rsp := rfl
@[simp] theorem State.storeMode_inputs (s : State) (m : Byte) : (s.storeMode m).inputs = s.inputs := rfl
@[simp] theorem State.storeMode_freeCount (s : State) (m : Byte) : (s.storeMode m).freeCount = s.freeCount := rfl
@[simp] theorem State.storeMode_portCount (s : State) (m : Byte) : (s.storeMode m).portCount = s.portCount := rfl
@[simp] theorem State.storeMode_activeOffset (s : State) (m : Byte) : (s.storeMode m).activeOffset = s.activeOffset := rfl

/-! ### `storePeriod` -/

@[simp] theorem State.storePeriod_base (s : State) (n : Nat) : (s.storePeriod n).base = s.base := rfl
@[simp] theorem State.storePeriod_window (s : State) (n : Nat) : (s.storePeriod n).window = s.window := rfl
@[simp] theorem State.storePeriod_rank (s : State) (n : Nat) : (s.storePeriod n).rank = s.rank := rfl
@[simp] theorem State.storePeriod_activeCount (s : State) (n : Nat) : (s.storePeriod n).activeCount = s.activeCount := rfl
@[simp] theorem State.storePeriod_mode (s : State) (n : Nat) : (s.storePeriod n).mode = s.mode := rfl
@[simp] theorem State.storePeriod_period (s : State) (n : Nat) : (s.storePeriod n).period = BitVec.ofNat 16 n := rfl
@[simp] theorem State.storePeriod_cmdReady (s : State) (n : Nat) : (s.storePeriod n).cmdReady = s.cmdReady := rfl
@[simp] theorem State.storePeriod_wdata (s : State) (n : Nat) : (s.storePeriod n).wdata = s.wdata := rfl
@[simp] theorem State.storePeriod_rsp (s : State) (n : Nat) : (s.storePeriod n).rsp = s.rsp := rfl
@[simp] theorem State.storePeriod_inputs (s : State) (n : Nat) : (s.storePeriod n).inputs = s.inputs := rfl
@[simp] theorem State.storePeriod_freeCount (s : State) (n : Nat) : (s.storePeriod n).freeCount = s.freeCount := rfl
@[simp] theorem State.storePeriod_portCount (s : State) (n : Nat) : (s.storePeriod n).portCount = s.portCount := rfl
@[simp] theorem State.storePeriod_flagS (s : State) (n : Nat) : (s.storePeriod n).flagS = s.flagS := rfl
@[simp] theorem State.storePeriod_flagA (s : State) (n : Nat) : (s.storePeriod n).flagA = s.flagA := rfl
@[simp] theorem State.storePeriod_countS (s : State) (n : Nat) : (s.storePeriod n).countS = s.countS := rfl
@[simp] theorem State.storePeriod_floor (s : State) (n : Nat) : (s.storePeriod n).floor = s.floor := rfl

/-! ### `storeWindow` -/

@[simp] theorem State.storeWindow_base (s : State) (bm : Bitmap) : (s.storeWindow bm).base = s.base := rfl
@[simp] theorem State.storeWindow_window (s : State) (bm : Bitmap) : (s.storeWindow bm).window = bm := rfl
@[simp] theorem State.storeWindow_rank (s : State) (bm : Bitmap) : (s.storeWindow bm).rank = s.rank := rfl
@[simp] theorem State.storeWindow_activeCount (s : State) (bm : Bitmap) : (s.storeWindow bm).activeCount = s.activeCount := rfl
@[simp] theorem State.storeWindow_mode (s : State) (bm : Bitmap) : (s.storeWindow bm).mode = s.mode := rfl
@[simp] theorem State.storeWindow_period (s : State) (bm : Bitmap) : (s.storeWindow bm).period = s.period := rfl
@[simp] theorem State.storeWindow_cmdReady (s : State) (bm : Bitmap) : (s.storeWindow bm).cmdReady = s.cmdReady := rfl
@[simp] theorem State.storeWindow_wdata (s : State) (bm : Bitmap) : (s.storeWindow bm).wdata = s.wdata := rfl
@[simp] theorem State.storeWindow_rsp (s : State) (bm : Bitmap) : (s.storeWindow bm).rsp = s.rsp := rfl
@[simp] theorem State.storeWindow_inputs (s : State) (bm : Bitmap) : (s.storeWindow bm).inputs = s.inputs := rfl
@[simp] theorem State.storeWindow_freeCount (s : State) (bm : Bitmap) : (s.storeWindow bm).freeCount = s.freeCount := rfl
@[simp] theorem State.storeWindow_portCount (s : State) (bm : Bitmap) : (s.storeWindow bm).portCount = s.portCount := rfl
@[simp] theorem State.storeWindow_flagS (s : State) (bm : Bitmap) : (s.storeWindow bm).flagS = s.flagS := rfl
@[simp] theorem State.storeWindow_flagA (s : State) (bm : Bitmap) : (s.storeWindow bm).flagA = s.flagA := rfl
@[simp] theorem State.storeWindow_countS (s : State) (bm : Bitmap) : (s.storeWindow bm).countS = s.countS := rfl
@[simp] theorem State.storeWindow_floor (s : State) (bm : Bitmap) : (s.storeWindow bm).floor = s.floor := rfl
@[simp] theorem State.storeWindow_activeOffset (s : State) (bm : Bitmap) : (s.storeWindow bm).activeOffset = s.activeOffset := rfl

/-! ### `drawn` -/

@[simp] theorem State.drawn_base (s : State) : s.drawn.base = s.base := rfl
@[simp] theorem State.drawn_window (s : State) : s.drawn.window = s.window := rfl
@[simp] theorem State.drawn_rank (s : State) : s.drawn.rank = s.rank := rfl
@[simp] theorem State.drawn_activeCount (s : State) : s.drawn.activeCount = s.activeCount := rfl
@[simp] theorem State.drawn_mode (s : State) : s.drawn.mode = s.mode := rfl
@[simp] theorem State.drawn_period (s : State) : s.drawn.period = s.period := rfl
@[simp] theorem State.drawn_cmdReady (s : State) : s.drawn.cmdReady = s.cmdReady := rfl
@[simp] theorem State.drawn_wdata (s : State) : s.drawn.wdata = s.wdata := rfl
@[simp] theorem State.drawn_rsp (s : State) : s.drawn.rsp = s.rsp := rfl
@[simp] theorem State.drawn_inputs (s : State) : s.drawn.inputs = s.inputs := rfl
@[simp] theorem State.drawn_freeCount (s : State) : s.drawn.freeCount = s.freeCount + 1 := rfl
@[simp] theorem State.drawn_portCount (s : State) : s.drawn.portCount = s.portCount := rfl
@[simp] theorem State.drawn_flagS (s : State) : s.drawn.flagS = s.flagS := rfl
@[simp] theorem State.drawn_flagA (s : State) : s.drawn.flagA = s.flagA := rfl
@[simp] theorem State.drawn_countS (s : State) : s.drawn.countS = s.countS := rfl
@[simp] theorem State.drawn_floor (s : State) : s.drawn.floor = s.floor := rfl
@[simp] theorem State.drawn_activeOffset (s : State) : s.drawn.activeOffset = s.activeOffset := rfl

/-! ### `deriveRanks` -/

@[simp] theorem State.deriveRanks_base (s : State) : s.deriveRanks.base = s.base := rfl
@[simp] theorem State.deriveRanks_window (s : State) : s.deriveRanks.window = s.window := rfl
@[simp] theorem State.deriveRanks_rank (s : State) : s.deriveRanks.rank = (derive s.base).1 := rfl
@[simp] theorem State.deriveRanks_activeCount (s : State) : s.deriveRanks.activeCount = (derive s.base).2 := rfl
@[simp] theorem State.deriveRanks_mode (s : State) : s.deriveRanks.mode = s.mode := rfl
@[simp] theorem State.deriveRanks_period (s : State) : s.deriveRanks.period = s.period := rfl
@[simp] theorem State.deriveRanks_cmdReady (s : State) : s.deriveRanks.cmdReady = s.cmdReady := rfl
@[simp] theorem State.deriveRanks_wdata (s : State) : s.deriveRanks.wdata = s.wdata := rfl
@[simp] theorem State.deriveRanks_rsp (s : State) : s.deriveRanks.rsp = s.rsp := rfl
@[simp] theorem State.deriveRanks_inputs (s : State) : s.deriveRanks.inputs = s.inputs := rfl
@[simp] theorem State.deriveRanks_freeCount (s : State) : s.deriveRanks.freeCount = s.freeCount := rfl
@[simp] theorem State.deriveRanks_portCount (s : State) : s.deriveRanks.portCount = s.portCount := rfl
@[simp] theorem State.deriveRanks_flagS (s : State) : s.deriveRanks.flagS = s.flagS := rfl
@[simp] theorem State.deriveRanks_flagA (s : State) : s.deriveRanks.flagA = s.flagA := rfl
@[simp] theorem State.deriveRanks_countS (s : State) : s.deriveRanks.countS = s.countS := rfl

/-! ### `revalidatePeriod` -/

@[simp] theorem State.revalidatePeriod_base (s : State) : s.revalidatePeriod.base = s.base := rfl
@[simp] theorem State.revalidatePeriod_window (s : State) : s.revalidatePeriod.window = s.window := rfl
@[simp] theorem State.revalidatePeriod_rank (s : State) : s.revalidatePeriod.rank = s.rank := rfl
@[simp] theorem State.revalidatePeriod_activeCount (s : State) : s.revalidatePeriod.activeCount = s.activeCount := rfl
@[simp] theorem State.revalidatePeriod_mode (s : State) : s.revalidatePeriod.mode = s.mode := rfl
@[simp] theorem State.revalidatePeriod_period (s : State) : s.revalidatePeriod.period = BitVec.ofNat 16 (max s.period.toNat s.floor) := rfl
@[simp] theorem State.revalidatePeriod_cmdReady (s : State) : s.revalidatePeriod.cmdReady = s.cmdReady := rfl
@[simp] theorem State.revalidatePeriod_wdata (s : State) : s.revalidatePeriod.wdata = s.wdata := rfl
@[simp] theorem State.revalidatePeriod_rsp (s : State) : s.revalidatePeriod.rsp = s.rsp := rfl
@[simp] theorem State.revalidatePeriod_inputs (s : State) : s.revalidatePeriod.inputs = s.inputs := rfl
@[simp] theorem State.revalidatePeriod_freeCount (s : State) : s.revalidatePeriod.freeCount = s.freeCount := rfl
@[simp] theorem State.revalidatePeriod_portCount (s : State) : s.revalidatePeriod.portCount = s.portCount := rfl
@[simp] theorem State.revalidatePeriod_flagS (s : State) : s.revalidatePeriod.flagS = s.flagS := rfl
@[simp] theorem State.revalidatePeriod_flagA (s : State) : s.revalidatePeriod.flagA = s.flagA := rfl
@[simp] theorem State.revalidatePeriod_countS (s : State) : s.revalidatePeriod.countS = s.countS := rfl
@[simp] theorem State.revalidatePeriod_floor (s : State) : s.revalidatePeriod.floor = s.floor := rfl

/-! ### `clampPeriod` -/

@[simp] theorem State.clampPeriod_base (s : State) (q : Half) : (s.clampPeriod q).base = s.base := rfl
@[simp] theorem State.clampPeriod_window (s : State) (q : Half) : (s.clampPeriod q).window = s.window := rfl
@[simp] theorem State.clampPeriod_rank (s : State) (q : Half) : (s.clampPeriod q).rank = s.rank := rfl
@[simp] theorem State.clampPeriod_activeCount (s : State) (q : Half) : (s.clampPeriod q).activeCount = s.activeCount := rfl
@[simp] theorem State.clampPeriod_mode (s : State) (q : Half) : (s.clampPeriod q).mode = s.mode := rfl
@[simp] theorem State.clampPeriod_period (s : State) (q : Half) : (s.clampPeriod q).period = BitVec.ofNat 16 (max q.toNat s.floor) := rfl
@[simp] theorem State.clampPeriod_cmdReady (s : State) (q : Half) : (s.clampPeriod q).cmdReady = s.cmdReady := rfl
@[simp] theorem State.clampPeriod_wdata (s : State) (q : Half) : (s.clampPeriod q).wdata = s.wdata := rfl
@[simp] theorem State.clampPeriod_rsp (s : State) (q : Half) : (s.clampPeriod q).rsp = s.rsp := rfl
@[simp] theorem State.clampPeriod_inputs (s : State) (q : Half) : (s.clampPeriod q).inputs = s.inputs := rfl
@[simp] theorem State.clampPeriod_freeCount (s : State) (q : Half) : (s.clampPeriod q).freeCount = s.freeCount := rfl
@[simp] theorem State.clampPeriod_portCount (s : State) (q : Half) : (s.clampPeriod q).portCount = s.portCount := rfl
@[simp] theorem State.clampPeriod_flagS (s : State) (q : Half) : (s.clampPeriod q).flagS = s.flagS := rfl
@[simp] theorem State.clampPeriod_flagA (s : State) (q : Half) : (s.clampPeriod q).flagA = s.flagA := rfl
@[simp] theorem State.clampPeriod_countS (s : State) (q : Half) : (s.clampPeriod q).countS = s.countS := rfl
@[simp] theorem State.clampPeriod_floor (s : State) (q : Half) : (s.clampPeriod q).floor = s.floor := rfl

/-! ### `respond` -/

@[simp] theorem State.respond_base (s : State) (st : Status) (v : Half) (d : Nat) : (s.respond st v d).base = s.base := rfl
@[simp] theorem State.respond_window (s : State) (st : Status) (v : Half) (d : Nat) : (s.respond st v d).window = s.window := rfl
@[simp] theorem State.respond_rank (s : State) (st : Status) (v : Half) (d : Nat) : (s.respond st v d).rank = s.rank := rfl
@[simp] theorem State.respond_activeCount (s : State) (st : Status) (v : Half) (d : Nat) : (s.respond st v d).activeCount = s.activeCount := rfl
@[simp] theorem State.respond_mode (s : State) (st : Status) (v : Half) (d : Nat) : (s.respond st v d).mode = s.mode := rfl
@[simp] theorem State.respond_period (s : State) (st : Status) (v : Half) (d : Nat) : (s.respond st v d).period = s.period := rfl
@[simp] theorem State.respond_cmdReady (s : State) (st : Status) (v : Half) (d : Nat) : (s.respond st v d).cmdReady = s.cmdReady := rfl
@[simp] theorem State.respond_wdata (s : State) (st : Status) (v : Half) (d : Nat) : (s.respond st v d).wdata = s.wdata := rfl
@[simp] theorem State.respond_rsp (s : State) (st : Status) (v : Half) (d : Nat) : (s.respond st v d).rsp = some ⟨st, v, d⟩ := rfl
@[simp] theorem State.respond_inputs (s : State) (st : Status) (v : Half) (d : Nat) : (s.respond st v d).inputs = s.inputs := rfl
@[simp] theorem State.respond_freeCount (s : State) (st : Status) (v : Half) (d : Nat) : (s.respond st v d).freeCount = s.freeCount := rfl
@[simp] theorem State.respond_portCount (s : State) (st : Status) (v : Half) (d : Nat) : (s.respond st v d).portCount = s.portCount := rfl
@[simp] theorem State.respond_flagS (s : State) (st : Status) (v : Half) (d : Nat) : (s.respond st v d).flagS = s.flagS := rfl
@[simp] theorem State.respond_flagA (s : State) (st : Status) (v : Half) (d : Nat) : (s.respond st v d).flagA = s.flagA := rfl
@[simp] theorem State.respond_countS (s : State) (st : Status) (v : Half) (d : Nat) : (s.respond st v d).countS = s.countS := rfl
@[simp] theorem State.respond_floor (s : State) (st : Status) (v : Half) (d : Nat) : (s.respond st v d).floor = s.floor := rfl
@[simp] theorem State.respond_activeOffset (s : State) (st : Status) (v : Half) (d : Nat) : (s.respond st v d).activeOffset = s.activeOffset := rfl

/-! ### `latchWindow` -/

@[simp] theorem State.latchWindow_base (s : State) (bm : Bitmap) : (s.latchWindow bm).base = s.base := rfl
@[simp] theorem State.latchWindow_window (s : State) (bm : Bitmap) : (s.latchWindow bm).window = bm := rfl
@[simp] theorem State.latchWindow_rank (s : State) (bm : Bitmap) : (s.latchWindow bm).rank = s.rank := rfl
@[simp] theorem State.latchWindow_activeCount (s : State) (bm : Bitmap) : (s.latchWindow bm).activeCount = s.activeCount := rfl
@[simp] theorem State.latchWindow_mode (s : State) (bm : Bitmap) : (s.latchWindow bm).mode = s.mode := rfl
@[simp] theorem State.latchWindow_period (s : State) (bm : Bitmap) : (s.latchWindow bm).period = s.period := rfl
@[simp] theorem State.latchWindow_cmdReady (s : State) (bm : Bitmap) : (s.latchWindow bm).cmdReady = s.cmdReady := rfl
@[simp] theorem State.latchWindow_wdata (s : State) (bm : Bitmap) : (s.latchWindow bm).wdata = s.wdata := rfl
@[simp] theorem State.latchWindow_rsp (s : State) (bm : Bitmap) : (s.latchWindow bm).rsp = some ⟨.ok, 0#16, busWord bm⟩ := rfl
@[simp] theorem State.latchWindow_inputs (s : State) (bm : Bitmap) : (s.latchWindow bm).inputs = s.inputs := rfl
@[simp] theorem State.latchWindow_freeCount (s : State) (bm : Bitmap) : (s.latchWindow bm).freeCount = s.freeCount := rfl
@[simp] theorem State.latchWindow_portCount (s : State) (bm : Bitmap) : (s.latchWindow bm).portCount = s.portCount := rfl
@[simp] theorem State.latchWindow_flagS (s : State) (bm : Bitmap) : (s.latchWindow bm).flagS = s.flagS := rfl
@[simp] theorem State.latchWindow_flagA (s : State) (bm : Bitmap) : (s.latchWindow bm).flagA = s.flagA := rfl
@[simp] theorem State.latchWindow_countS (s : State) (bm : Bitmap) : (s.latchWindow bm).countS = s.countS := rfl
@[simp] theorem State.latchWindow_floor (s : State) (bm : Bitmap) : (s.latchWindow bm).floor = s.floor := rfl
@[simp] theorem State.latchWindow_activeOffset (s : State) (bm : Bitmap) : (s.latchWindow bm).activeOffset = s.activeOffset := rfl

/-! ### `accept` -/

@[simp] theorem State.accept_base (s : State) (w : Nat) (rest : List Edge) : (s.accept w rest).base = s.base := rfl
@[simp] theorem State.accept_window (s : State) (w : Nat) (rest : List Edge) : (s.accept w rest).window = s.window := rfl
@[simp] theorem State.accept_rank (s : State) (w : Nat) (rest : List Edge) : (s.accept w rest).rank = s.rank := rfl
@[simp] theorem State.accept_activeCount (s : State) (w : Nat) (rest : List Edge) : (s.accept w rest).activeCount = s.activeCount := rfl
@[simp] theorem State.accept_mode (s : State) (w : Nat) (rest : List Edge) : (s.accept w rest).mode = s.mode := rfl
@[simp] theorem State.accept_period (s : State) (w : Nat) (rest : List Edge) : (s.accept w rest).period = s.period := rfl
@[simp] theorem State.accept_cmdReady (s : State) (w : Nat) (rest : List Edge) : (s.accept w rest).cmdReady = s.cmdReady := rfl
@[simp] theorem State.accept_wdata (s : State) (w : Nat) (rest : List Edge) : (s.accept w rest).wdata = w % 2 ^ (8 * s.portCount) := rfl
@[simp] theorem State.accept_rsp (s : State) (w : Nat) (rest : List Edge) : (s.accept w rest).rsp = none := rfl
@[simp] theorem State.accept_inputs (s : State) (w : Nat) (rest : List Edge) : (s.accept w rest).inputs = rest := rfl
@[simp] theorem State.accept_freeCount (s : State) (w : Nat) (rest : List Edge) : (s.accept w rest).freeCount = s.freeCount := rfl
@[simp] theorem State.accept_portCount (s : State) (w : Nat) (rest : List Edge) : (s.accept w rest).portCount = s.portCount := rfl
@[simp] theorem State.accept_flagS (s : State) (w : Nat) (rest : List Edge) : (s.accept w rest).flagS = s.flagS := rfl
@[simp] theorem State.accept_flagA (s : State) (w : Nat) (rest : List Edge) : (s.accept w rest).flagA = s.flagA := rfl
@[simp] theorem State.accept_countS (s : State) (w : Nat) (rest : List Edge) : (s.accept w rest).countS = s.countS := rfl
@[simp] theorem State.accept_floor (s : State) (w : Nat) (rest : List Edge) : (s.accept w rest).floor = s.floor := rfl
@[simp] theorem State.accept_activeOffset (s : State) (w : Nat) (rest : List Edge) : (s.accept w rest).activeOffset = s.activeOffset := rfl

/-! ### `idle` -/

@[simp] theorem State.idle_base (s : State) (rest : List Edge) : (s.idle rest).base = s.base := rfl
@[simp] theorem State.idle_window (s : State) (rest : List Edge) : (s.idle rest).window = s.window := rfl
@[simp] theorem State.idle_rank (s : State) (rest : List Edge) : (s.idle rest).rank = s.rank := rfl
@[simp] theorem State.idle_activeCount (s : State) (rest : List Edge) : (s.idle rest).activeCount = s.activeCount := rfl
@[simp] theorem State.idle_mode (s : State) (rest : List Edge) : (s.idle rest).mode = s.mode := rfl
@[simp] theorem State.idle_period (s : State) (rest : List Edge) : (s.idle rest).period = s.period := rfl
@[simp] theorem State.idle_cmdReady (s : State) (rest : List Edge) : (s.idle rest).cmdReady = true := rfl
@[simp] theorem State.idle_wdata (s : State) (rest : List Edge) : (s.idle rest).wdata = s.wdata := rfl
@[simp] theorem State.idle_rsp (s : State) (rest : List Edge) : (s.idle rest).rsp = none := rfl
@[simp] theorem State.idle_inputs (s : State) (rest : List Edge) : (s.idle rest).inputs = rest := rfl
@[simp] theorem State.idle_freeCount (s : State) (rest : List Edge) : (s.idle rest).freeCount = s.freeCount := rfl
@[simp] theorem State.idle_portCount (s : State) (rest : List Edge) : (s.idle rest).portCount = s.portCount := rfl
@[simp] theorem State.idle_flagS (s : State) (rest : List Edge) : (s.idle rest).flagS = s.flagS := rfl
@[simp] theorem State.idle_flagA (s : State) (rest : List Edge) : (s.idle rest).flagA = s.flagA := rfl
@[simp] theorem State.idle_countS (s : State) (rest : List Edge) : (s.idle rest).countS = s.countS := rfl
@[simp] theorem State.idle_floor (s : State) (rest : List Edge) : (s.idle rest).floor = s.floor := rfl
@[simp] theorem State.idle_activeOffset (s : State) (rest : List Edge) : (s.idle rest).activeOffset = s.activeOffset := rfl

/-! ### `takeReset` -/

@[simp] theorem State.takeReset_base (s : State) (rest : List Edge) : (s.takeReset rest).base = List.replicate s.portCount 0#8 := rfl
@[simp] theorem State.takeReset_window (s : State) (rest : List Edge) : (s.takeReset rest).window = List.replicate s.portCount 0#8 := rfl
@[simp] theorem State.takeReset_rank (s : State) (rest : List Edge) : (s.takeReset rest).rank = List.replicate (8 * s.portCount) none := rfl
@[simp] theorem State.takeReset_activeCount (s : State) (rest : List Edge) : (s.takeReset rest).activeCount = 0 := rfl
@[simp] theorem State.takeReset_mode (s : State) (rest : List Edge) : (s.takeReset rest).mode = 0#8 := rfl
@[simp] theorem State.takeReset_period (s : State) (rest : List Edge) : (s.takeReset rest).period = 0#16 := rfl
@[simp] theorem State.takeReset_cmdReady (s : State) (rest : List Edge) : (s.takeReset rest).cmdReady = false := rfl
@[simp] theorem State.takeReset_wdata (s : State) (rest : List Edge) : (s.takeReset rest).wdata = 0 := rfl
@[simp] theorem State.takeReset_rsp (s : State) (rest : List Edge) : (s.takeReset rest).rsp = none := rfl
@[simp] theorem State.takeReset_inputs (s : State) (rest : List Edge) : (s.takeReset rest).inputs = rest := rfl
@[simp] theorem State.takeReset_freeCount (s : State) (rest : List Edge) : (s.takeReset rest).freeCount = s.freeCount := rfl

end Sys2Proof.Machine
end

