-- ==== Sys2Proof/Laws/Step.lean ====
section
/-! SUPPORT. Everything an edge and a step can do, said once, and what the meanings need of the invariant. -/

namespace Sys2Proof.Machine

/-- Everything an edge can do before execution (spec/30_encoding.md R46, R125). -/
theorem edge_cases (s : State) :
    (∃ rest, s.edge = (none, s.idle rest)) ∨
    (∃ rest, s.inputs = .reset :: rest ∧ s.edge = (none, s.takeReset rest)) ∨
    (∃ cmd wdata rest, s.inputs = .present cmd wdata :: rest ∧ s.cmdReady = true ∧
      s.edge = (some cmd, s.accept wdata rest)) := by
  unfold State.edge
  split
  · exact .inl ⟨[], rfl⟩
  · exact .inl ⟨_, rfl⟩
  · exact .inr (.inl ⟨_, ‹_›, rfl⟩)
  · split
    · exact .inr (.inr ⟨_, _, _, ‹_›, ‹_›, rfl⟩)
    · exact .inl ⟨_, rfl⟩

/-- Everything a step that goes on can have done: nothing, a reset, an executed command, or an illegal word answered. -/
theorem step_cases {s t : State} (h : step s = .next t) :
    (∃ rest, t = s.idle rest) ∨
    (∃ rest, s.inputs = .reset :: rest ∧ t = s.takeReset rest) ∨
    (∃ cmd wdata rest, s.inputs = .present cmd wdata :: rest ∧ s.cmdReady = true ∧
      ((∃ i, decode cmd = .ok i ∧ exec i (s.accept wdata rest) = .next t) ∨
       (∃ e, decode cmd = .error e ∧ t = (s.accept wdata rest).answerError .illegal))) := by
  unfold step at h
  obtain ⟨rest, he⟩ | ⟨rest, hi, he⟩ | ⟨cmd, wdata, rest, hi, hr, he⟩ := edge_cases s <;> simp only [he] at h
  · exact .inl ⟨rest, by cases h; rfl⟩
  · exact .inr (.inl ⟨rest, hi, by cases h; rfl⟩)
  · refine .inr (.inr ⟨cmd, wdata, rest, hi, hr, ?_⟩)
    unfold runWord at h
    split at h
    · exact .inl ⟨_, ‹_›, h⟩
    · exact .inr ⟨_, ‹_›, by cases h; rfl⟩

/-- SET_BASE_STATE on a port that exists (R67). -/
theorem execSetBaseState_in_range (s : State) (port byte : Byte) (h : port.toNat < s.portCount) :
    execSetBaseState port byte s =
      .next ((s.storePort port.toNat byte).deriveRanks.revalidatePeriod.respond .ok 0#16 0) := by
  simp [execSetBaseState, portOperand, Nat.not_le.mpr h]

/-- SET_BASE_STATE on a port that does not (R67, R111). -/
theorem execSetBaseState_out_of_range (s : State) (port byte : Byte) (h : s.portCount ≤ port.toNat) :
    execSetBaseState port byte s = .next (s.answerError .portRange) := by
  simp [execSetBaseState, portOperand, h]

/-- COMPUTE_WINDOW on a slot of the period (R90). -/
theorem execComputeWindow_in_range (s : State) (w : Half) (h : w.toNat < s.period.toNat) :
    execComputeWindow w s = .next (s.latchWindow (s.windowBitmap w.toNat)) := by
  simp [execComputeWindow, valueOperand, h]

/-- COMPUTE_WINDOW on an index outside it (R99). -/
theorem execComputeWindow_out_of_range (s : State) (w : Half) (h : s.period.toNat ≤ w.toNat) :
    execComputeWindow w s = .next (s.drawn.latchWindow s.freeWindow) := by
  simp [execComputeWindow, valueOperand, Nat.not_lt.mpr h]

/-- Every command completes with a response, and leaves what the environment presents and `cmd_ready` alone (R43, R48). -/
theorem exec_answers (i : Instr) (s : State) :
    ∃ t r, exec i s = .next t ∧ t.rsp = some r ∧ t.inputs = s.inputs ∧ t.cmdReady = s.cmdReady := by
  cases i with
  | setBaseState port byte =>
    by_cases h : s.portCount ≤ port.toNat
    · exact ⟨_, _, execSetBaseState_out_of_range s port byte h, rfl, rfl, rfl⟩
    · exact ⟨_, _, execSetBaseState_in_range s port byte (Nat.lt_of_not_le h), rfl, rfl, rfl⟩
  | computeWindow w =>
    by_cases h : w.toNat < s.period.toNat
    · exact ⟨_, _, execComputeWindow_in_range s w h, rfl, rfl, rfl⟩
    · exact ⟨_, _, execComputeWindow_out_of_range s w (Nat.le_of_not_lt h), rfl, rfl, rfl⟩
  | _ => exact ⟨_, _, rfl, rfl, rfl, rfl⟩

/-- A command that decodes answers OK, but for SET_BASE_STATE on a port that does not exist (R111). -/
theorem exec_status {i : Instr} {s t : State} {r : Response} (h : exec i s = .next t) (hr : t.rsp = some r) :
    r.status = .ok ∨ ∃ port byte, i = .setBaseState port byte ∧ s.portCount ≤ port.toNat ∧ t = s.answerError .portRange := by
  have key : ∀ {u : State} {v : Half} {d : Nat}, exec i s = .next (u.respond .ok v d) → r.status = .ok := by
    intro u v d hu
    rw [h] at hu
    injection hu with hu
    subst hu
    simp only [State.respond_rsp, Option.some.injEq] at hr
    simp [← hr]
  cases i with
  | setBaseState port byte =>
    by_cases hp : s.portCount ≤ port.toNat
    · have hu := h.symm.trans (execSetBaseState_out_of_range s port byte hp)
      injection hu with hu
      exact .inr ⟨port, byte, rfl, hp, hu⟩
    · exact .inl (key (execSetBaseState_in_range s port byte (Nat.lt_of_not_le hp)))
  | computeWindow w =>
    by_cases hw : w.toNat < s.period.toNat
    · exact .inl (key (execComputeWindow_in_range s w hw))
    · exact .inl (key (execComputeWindow_out_of_range s w (Nat.le_of_not_lt hw)))
  | _ => exact .inl (key rfl)

@[simp] theorem windowBitmap_length (s : State) (w : Nat) : (s.windowBitmap w).length = s.portCount := by
  simp [State.windowBitmap]

theorem bitAt_windowBitmap (s : State) (w c : Nat) (h : c < s.channelCount) :
    bitAt (s.windowBitmap w) c = s.windowBit w c := bitAt_ofChannels _ _ _ h

theorem countS_le_one (s : State) : s.countS ≤ 1 := Bool.toNat_le _

/-- Where the ranks are derived there are at most `N` active channels (R15, R16). -/
theorem activeCount_le {s : State} (h : s.RanksDerived) : s.activeCount ≤ s.channelCount := by
  have := congrArg Prod.snd h
  simp only at this
  rw [this]
  exact derive_count_le s.base

/-- Under the invariant the floor fits the PERIOD register (R7). -/
theorem floor_lt {s : State} (h : s.Shape) (hr : s.RanksDerived) : s.floor < 2 ^ 16 := by
  have h1 := activeCount_le hr
  have h2 := h.2.1
  have h3 := countS_le_one s
  simp only [State.channelCount] at h1
  simp only [State.floor]
  omega

/-! ### Several steps in a row -/

/-- A run begins with one step. -/
theorem core_run_succ {s u : State} (k : Nat) (h : step s = .next u) : core.run (k + 1) s = core.run k u := by
  have hs : core.step s = .next u := h
  simp only [Host.Core.run, hs]

/-- A run goes on from where its first part has come. -/
theorem core_run_add {s t : State} (k n : Nat) (h : core.run k s = .next t) : core.run (k + n) s = core.run n t := by
  induction k generalizing s with
  | zero => cases h; rw [Nat.zero_add]
  | succ k ih =>
    rw [Nat.succ_add]
    simp only [Host.Core.run] at h ⊢
    split at h
    · exact ih h
    · cases h
    · cases h

end Sys2Proof.Machine
end

