-- ==== Sys2Proof/Laws/Window.lean ====
section
/-! SUPPORT. The regions of a period in plain numbers (spec/42_window_generator.md R90, R92): with the period invariant no
subtraction goes below zero (R91). -/

namespace Sys2Proof.Machine

theorem inMeasurement_iff (s : State) (w : Nat) :
    s.inMeasurement w = true ↔ 1 < s.activeCount ∧ s.period.toNat ≤ w + s.activeCount := by
  simp only [State.inMeasurement, Bool.and_eq_true, decide_eq_true_eq]
  simp only [State.activeOffset]
  omega

theorem inForcedOff_iff (s : State) (w : Nat) :
    s.inForcedOff w = true ↔
      1 < s.activeCount ∧ s.flagA = true ∧ w + s.activeCount + s.flagS.toNat < s.period.toNat := by
  simp only [State.inForcedOff, Bool.and_eq_true, decide_eq_true_eq, and_assoc]
  simp only [State.activeOffset, State.countS]
  constructor <;> rintro ⟨a, b, c⟩ <;> exact ⟨a, b, by omega⟩

/-- In the measurement region the isolated channel is the one whose rank is `w − active_offset` (R87). -/
theorem isolated_iff (s : State) (w c : Nat) (h : s.period.toNat ≤ w + s.activeCount) :
    s.isolated w c = true ↔ s.rankOf c = some (w + s.activeCount - s.period.toNat) := by
  simp only [State.isolated]
  cases s.rankOf c with
  | none => simp
  | some r =>
    simp only [decide_eq_true_eq, Option.some.injEq]
    simp only [State.slotOf, State.activeOffset]
    omega

/-- The rank table of the invariant is the derived one (R16). -/
theorem rankOf_eq {s : State} (h : s.RanksDerived) (c : Nat) : s.rankOf c = (derive s.base).1.getD c none := by
  have := congrArg Prod.fst h
  simp only at this
  rw [State.rankOf, this]

theorem activeCount_eq {s : State} (h : s.RanksDerived) : s.activeCount = (derive s.base).2 := congrArg Prod.snd h

end Sys2Proof.Machine
end

