-- ==== Sys2Proof/Tests/Slice0.lean ====
section
/-! SUPPORT. Tests: expected results from spec/95_test_vectors.md and from the encodings of spec/30_encoding.md R50, never
from the model; and a witness for the hypotheses of every statement that has some. -/

namespace Sys2Proof.Machine.Tests

/-- A ready machine of `ports` ports with these registers, the ranks derived, presented with `inputs`. -/
def demo (ports : Nat) (base : Nat) (mode : Byte) (period : Half) (inputs : List Edge) : State :=
  { State.resetPorts ports with
    base := ofBusWord ports base, mode := mode, period := period, cmdReady := true, inputs := inputs }.deriveRanks

/-- The state after a step or command that goes on, the given one otherwise. -/
def after (s : State) : Host.Outcome State Fault Refusal → State
  | .next t => t
  | .fault _ => s
  | .refused _ => s

/-! ### Ill-formed operands, one for each check (R57) -/

theorem test_wf_mode : (Source.configure 256).wellFormed 1 = false := by decide
theorem test_wf_bitmap : (Source.setBaseStates 0x100).wellFormed 1 = false := by decide
theorem test_wf_port : (Source.setBaseState 256 0).wellFormed 1 = false := by decide
theorem test_wf_byte : (Source.setBaseState 0 256).wellFormed 1 = false := by decide
theorem test_wf_requested : (Source.setPeriod 65536).wellFormed 1 = false := by decide
theorem test_wf_index : (Source.computeWindow 65536).wellFormed 1 = false := by decide
theorem test_wf_accepts : (Source.setBaseState 255 255).wellFormed 1 = true := by decide

/-! ### Decoding: words written out from the patterns of R50; the ids are those of spec/95 part 2.1 -/

theorem test_decode_configure : decode 0b0001_000000000000_00000000_11111111#32 = .ok (.configure 0xFF#8) := by rfl
theorem test_decode_set_base_states : decode 0b0010_000000000000_00000000_00000000#32 = .ok .setBaseStates := by rfl
theorem test_decode_set_base_state :
    decode 0b0011_000000000000_11111111_10101010#32 = .ok (.setBaseState 0xFF#8 0xAA#8) := by rfl
theorem test_decode_set_period : decode 0b0100_000000000000_11111111_11111110#32 = .ok (.setPeriod 0xFFFE#16) := by rfl
theorem test_decode_get_base_states : decode 0b0101_000000000000_00000000_00000000#32 = .ok .getBaseStates := by rfl
theorem test_decode_compute_window :
    decode 0b0110_000000000000_00000001_00000010#32 = .ok (.computeWindow 258#16) := by rfl
theorem test_illegal_E10_E11_E12 :
    decode 0x00000000#32 = .error .unusedOpcode ∧ decode 0xFFFFFFFF#32 = .error .unusedOpcode ∧
    decode 0x70000000#32 = .error .unusedOpcode := by exact ⟨rfl, rfl, rfl⟩
theorem test_illegal_E13_E14_E15 :
    decode 0x10000100#32 = .error .operandBits ∧ decode 0x20000001#32 = .error .operandBits ∧
    decode 0x50008000#32 = .error .operandBits := by exact ⟨rfl, rfl, rfl⟩
theorem test_illegal_E16_E17 :
    decode 0x60010000#32 = .error .reservedBits ∧ decode 0x3001FF00#32 = .error .reservedBits := by exact ⟨rfl, rfl⟩
theorem test_rows_disjoint : opcodeRows.Pairwise fun a b => a.pattern &&& b.mask &&& a.mask ≠ b.pattern &&& a.mask := by
  decide
theorem test_table_word : decodeTableWord 32 0x300001AA = some (.setBaseState 1#8 0xAA#8) := by rfl
theorem test_read_line :
    readLine "  set_base_state 0, 0xFF ; port 0".toList = some (.command (.setBaseState 0 0xFF)) := by decide
theorem test_read_expect : readLine "-> 0b101".toList = some (.expect (.value 5)) := by decide

/-! ### Commands: vectors of spec/95 -/

/-- M3: S adds 1 to the floor. -/
theorem test_configure_raises_period :
    (after (demo 1 0xFF 0 8 []) (exec (.configure 1) (demo 1 0xFF 0 8 []))).period = 9 := by decide
/-- M8 and M10: upper mode bits do not count, clearing S keeps the period. -/
theorem test_configure_keeps_period :
    (after (demo 1 0x03 1 3 []) (exec (.configure 0xFC) (demo 1 0x03 1 3 []))).period = 3 ∧
    (after (demo 1 0x03 1 3 []) (exec (.configure 0xFC) (demo 1 0x03 1 3 []))).mode = 0xFC := by decide
/-- The example of R66 (K6): ports and ranks across ports, from reset of two ports. -/
theorem test_set_base_states_ranks :
    let s := demo 2 0 0 0 [.present 0x20000000#32 0x1081]
    let t := after s (step s)
    t.base = [0x81#8, 0x10#8] ∧ t.rankOf 7 = some 0 ∧ t.rankOf 0 = some 1 ∧ t.rankOf 12 = some 2 ∧
      t.activeCount = 3 ∧ t.period = 3 := by decide
/-- M4: the floor falls, the period stays. -/
theorem test_set_base_states_keeps_period :
    let s := demo 1 0xFF 1 9 [.present 0x20000000#32 0x01]
    (after s (step s)).period = 9 ∧ (after s (step s)).activeCount = 1 := by decide
/-- M13: one port written, every rank derived again. -/
theorem test_set_base_state_port_0 :
    let t := after (demo 2 0x1081 0 3 []) (exec (.setBaseState 0 0xFF) (demo 2 0x1081 0 3 []))
    t.base = [0xFF#8, 0x10#8] ∧ t.rankOf 12 = some 8 ∧ t.rankOf 7 = some 0 ∧ t.period = 9 := by decide
/-- M14: port 2 of two ports. -/
theorem test_set_base_state_port_range :
    let s := demo 2 0x10FF 0 9 []
    exec (.setBaseState 2 1) s = .next { s with rsp := some ⟨.portRange, 0, 0⟩ } := by rfl
/-- M5: a request below the floor returns the floor. -/
theorem test_set_period_clamps :
    (after (demo 1 0x01 1 9 []) (exec (.setPeriod 0) (demo 1 0x01 1 9 []))).rsp = some ⟨.ok, 2, 0⟩ := by decide
/-- M11: a period of 0. -/
theorem test_set_period_zero :
    (after (demo 1 0x00 0 1 []) (exec (.setPeriod 0) (demo 1 0x00 0 1 []))).period = 0 := by decide
/-- M15: read-back. -/
theorem test_get_base_states :
    (after (demo 2 0x10FF 0 9 []) (exec .getBaseStates (demo 2 0x10FF 0 9 []))).rsp = some ⟨.ok, 0, 0x10FF⟩ := by decide
/-- W6 slot 1 (Example A, 90 C6): channel 1 has rank 0 and is the first to be switched off. -/
theorem test_compute_window_example_A :
    (after (demo 1 0x03 1 3 []) (exec (.computeWindow 1) (demo 1 0x03 1 3 []))).windowO = 0x01 := by decide
/-- W9 slot 2 (90 C2): the guard slot shows the base bitmap although A is set. -/
theorem test_compute_window_guard_slot :
    (after (demo 2 0x1081 3 6 []) (exec (.computeWindow 2) (demo 2 0x1081 3 6 []))).rsp = some ⟨.ok, 0, 0x1081⟩ := by
  decide

/-! ### The step -/

/-- From reset, with a word presented and the port ready, the very next step runs it, whatever the port count. -/
theorem test_first_command_after_reset :
    step (State.reset.withFetchWord 32 0x40000005) =
      exec (.setPeriod 5) (State.reset.presenting 0x40000005#32 0 |>.accept 0 []) := by rfl
/-- R114: the illegal word wins over the port check. -/
theorem test_illegal_before_port_range :
    let s := demo 2 0x1081 0 3 [.present 0x3001FF00#32 0]
    (after s (step s)).rsp = some ⟨.illegal, 0, 0⟩ := by decide

/-! ### Witnesses for the hypotheses of the statements -/

theorem witness_IllegalWordsChangeNothing :
    let s := demo 1 0x03 1 3 [.present 0x10000100#32 0x55]
    s.inputs = .present 0x10000100#32 0x55 :: [] ∧ s.cmdReady = true ∧
      (0x10000100#32).toNat / 2 ^ 28 = 1 ∧ (0x10000100#32).toNat / 2 ^ 8 % 2 ^ 8 ≠ 0 := by decide
theorem witness_AssembledLinesDecodeAsWritten :
    (Source.configure 256).wellFormed 1 = false ∧ (255 ≤ 255 ∧ 0xFF < 2 ^ (8 * 1) ∧ 65535 ≤ 65535) := by decide
theorem witness_StepRunsTheDecodedCommand :
    let s := demo 1 0x03 1 3 [.present 0x60000002#32 0, .quiet]
    s.inputs = .present 0x60000002#32 0 :: [.quiet] ∧ s.cmdReady = true ∧
      decode 0x60000002#32 = .ok (.computeWindow 2#16) := by exact ⟨rfl, rfl, rfl⟩
theorem witness_EdgeWithoutCommandMovesNoRegister :
    (demo 1 0 0 0 []).inputs = [] ∧ (demo 1 0 0 0 [.quiet, .reset]).inputs = .quiet :: [.reset] ∧
    (let s := { State.resetPorts 1 with inputs := [.present 0x50000000#32 0] }
     s.inputs = .present 0x50000000#32 0 :: [] ∧ s.cmdReady = false) := by decide
theorem witness_EveryAcceptedCommandIsAnswered :
    (let s := demo 1 0 0 0 [.present 0x50000000#32 0]
     s.inputs = .present 0x50000000#32 0 :: [] ∧ s.cmdReady = true) ∧
    (State.resetPorts 1).cmdReady = false ∧ ∀ cmd wdata rest, (demo 1 0 0 0 [.quiet]).inputs ≠ .present cmd wdata :: rest := by
  refine ⟨by decide, rfl, ?_⟩
  intro cmd wdata rest h
  cases h
theorem witness_ErrorsChangeNoState :
    (let s := demo 2 0x1081 0 3 [.present 0x30000201#32 0]
     (after s (step s)).rsp = some ⟨.portRange, 0, 0⟩) ∧
    (let s := demo 2 0x1081 0 3 [.present 0x70000000#32 0]
     (after s (step s)).rsp = some ⟨.illegal, 0, 0⟩) := by decide
theorem witness_ErrorCausesAreComplete :
    let s := demo 2 0x1081 0 3 [.present 0x30000201#32 0]
    s.inputs = .present 0x30000201#32 0 :: [] ∧ s.cmdReady = true ∧
      decode 0x30000201#32 = .ok (.setBaseState 2 1) ∧ s.portCount ≤ (2#8).toNat := by
  exact ⟨rfl, rfl, rfl, by decide⟩
theorem witness_ResetEdgeClearsTheBlock :
    (demo 2 0x1081 3 6 [.reset, .quiet]).inputs = .reset :: [.quiet] ∧ ∀ more, [Edge.quiet] ≠ .reset :: more := by
  refine ⟨rfl, ?_⟩
  intro more h
  cases h
theorem witness_ResetHoldsTheInvariant : (1 ≤ 1 ∧ 1 ≤ 256) ∧ (1 ≤ 256 ∧ 256 ≤ 256) := by decide
theorem witness_StepKeepsTheInvariant :
    let s := demo 2 0x1081 3 6 [.present 0x300000FF#32 0]
    s.Inv ∧ step s = .next (after s (step s)) := ⟨by decide, rfl⟩
theorem witness_PortCountIsFixed :
    let s := demo 2 0x1081 3 6 [.present 0x60000003#32 0]
    step s = .next (after s (step s)) ∧ s.window.length = s.portCount := ⟨rfl, by decide⟩
theorem witness_RanksFollowTheScan : 15 < 8 * [0x81#8, 0x10#8].length ∧ 0 < 8 * [0x81#8, 0x10#8].length := by decide
theorem witness_RankingIsABijection :
    bitAt [0x81#8, 0x10#8] 15 = false ∧ bitAt [0x81#8, 0x10#8] 0 = true ∧ 2 < (derive [0x81#8, 0x10#8]).2 ∧
      15 < 8 * [0x81#8, 0x10#8].length := by decide
theorem witness_RanksRiseAlongTheScan :
    (7 / 8 < 12 / 8 ∧ (derive [0x81#8, 0x10#8]).1.getD 7 none = some 0 ∧
      (derive [0x81#8, 0x10#8]).1.getD 12 none = some 2) ∧
    (7 / 8 = 0 / 8 ∧ 0 % 8 < 7 % 8 ∧ (derive [0x81#8, 0x10#8]).1.getD 0 none = some 1) := by decide
/-- The invariant alone is the hypothesis of the statements of CONFIGURE, SET_BASE_STATES, SET_PERIOD, BulkWriteReadsBack and
StatusOutputsShowTheState; one state with the period at the floor and one above it. -/
theorem witness_invariant : (demo 1 0x03 1 3 []).Inv ∧ (demo 2 0x1081 3 6 []).Inv := by decide
theorem witness_SetBaseStateStoresOnePort :
    (demo 2 0x1081 3 6 []).Inv ∧ (demo 2 0x1081 3 6 []).portCount ≤ (2#8).toNat ∧
      ¬ (demo 2 0x1081 3 6 []).portCount ≤ (1#8).toNat := by decide
theorem witness_SetPeriodClampsUpward :
    let s := demo 2 0x1081 3 6 []
    s.Inv ∧ s.activeCount + s.flagS.toNat ≤ (4#16).toNat ∧ ¬ s.activeCount + s.flagS.toNat ≤ (3#16).toNat := by decide
theorem witness_PortWrites : (1#8).toNat < (demo 2 0x1081 3 6 []).portCount := by decide
theorem witness_CommandsAreIdempotent :
    (demo 1 0x03 1 3 []).Inv ∧ ∀ w, Instr.computeWindow 2#16 = .computeWindow w → w.toNat < (demo 1 0x03 1 3 []).period.toNat := by
  refine ⟨by decide, ?_⟩
  intro w h
  cases h
  decide
theorem witness_OnlySetPeriodLowersThePeriod :
    (let s := demo 1 0x01 1 9 [.present 0x40000000#32 0]
     s.Inv ∧ step s = .next (after s (step s)) ∧ (after s (step s)).period.toNat < s.period.toNat) ∧
    (let s := demo 1 0x01 1 9 [.reset]
     s.Inv ∧ step s = .next (after s (step s)) ∧ (after s (step s)).period.toNat < s.period.toNat) :=
  ⟨⟨by decide, rfl, by decide⟩, ⟨by decide, rfl, by decide⟩⟩
theorem witness_EachRegisterHasItsWriters :
    let s := demo 2 0x1081 3 6 []
    exec (.computeWindow 3) s = .next (after s (exec (.computeWindow 3) s)) := rfl
theorem witness_BootFixesTheConfiguration :
    let s := demo 2 0xFFFF 3 99 [.present 0x10000001#32 0, .present 0x20000000#32 0x1081, .present 0x40000000#32 0]
    let u := demo 2 0xFFFF 3 99 [.present 0x20000000#32 0x1081, .present 0x10000001#32 0, .present 0x40000000#32 0]
    s.Inv ∧ u.Inv ∧ s.cmdReady = true ∧
      s.inputs = [.present (encode (.configure 1)) 0, .present (encode .setBaseStates) 0x1081,
        .present (encode (.setPeriod 0)) 0] ∧
      u.inputs = [.present (encode .setBaseStates) 0x1081, .present (encode (.configure 1)) 0,
        .present (encode (.setPeriod 0)) 0] := by decide
/-- Two ports, the higher one first, CONFIGURE between the port writes, and words on `wdata` that are ignored. -/
theorem witness_BootPortByPortFixesTheConfiguration :
    let cmds : List (Instr × Nat) := [(.setBaseState 1 0x10, 7), (.configure 1, 9), (.setBaseState 0 0x81, 0)]
    let s := demo 2 0xFFFF 3 99 ((cmds.map fun c => Edge.present (encode c.1) c.2) ++ [.present 0x40000000#32 5])
    s.Inv ∧ s.cmdReady = true ∧ [0x81#8, 0x10#8].length = s.portCount ∧
      (cmds.map Prod.fst).Perm (bootCommandsByPort 1 [0x81#8, 0x10#8]) ∧
      s.inputs = (cmds.map fun c => Edge.present (encode c.1) c.2) ++ [.present (encode (.setPeriod 0)) 5] := by decide
/-- The first and the last slot of a period, and both branches inside it. -/
theorem witness_ComputeWindowFollowsTheAlgorithm :
    let s := demo 2 0x1081 3 6 []
    s.Inv ∧ (0#16).toNat < s.period.toNat ∧ (5#16).toNat < s.period.toNat := by decide
/-- The first and the last slot of the measurement region, for both values of S. -/
theorem witness_MeasurementSlots :
    (let s := demo 2 0x1081 3 6 []
     s.Inv ∧ 1 < s.activeCount ∧ s.flagS = true ∧ s.period.toNat = (3#16).toNat + s.activeCount ∧
       (5#16).toNat < s.period.toNat ∧ s.period.toNat ≤ (5#16).toNat + s.activeCount) ∧
    (let s := demo 1 0x03 0 2 []
     s.Inv ∧ 1 < s.activeCount ∧ s.flagS = false ∧ s.period.toNat = (0#16).toNat + s.activeCount ∧
       (0#16).toNat < s.period.toNat) := by decide
theorem witness_EveryActiveChannelIsolatedOnce :
    let s := demo 2 0x1081 3 6 []
    s.Inv ∧ 1 < s.activeCount ∧ 12 < s.channelCount ∧ s.baseBit 12 = true ∧ s.baseBit 15 = false := by decide
/-- The last forced-off slot, the guard slot, and a lead slot with A clear. -/
theorem witness_SlotsBeforeMeasurementFollowTheBoundary :
    (let s := demo 2 0x1081 3 6 []
     s.Inv ∧ 1 < s.activeCount ∧ s.flagA = true ∧
       (1#16).toNat + s.activeCount + s.flagS.toNat + 1 = s.period.toNat ∧
       (2#16).toNat + s.activeCount < s.period.toNat ∧
       s.period.toNat ≤ (2#16).toNat + s.activeCount + s.flagS.toNat) ∧
    (let s := demo 2 0x1081 1 6 []
     s.Inv ∧ 1 < s.activeCount ∧ s.flagA = false ∧ (0#16).toNat + s.activeCount < s.period.toNat) := by decide
theorem witness_FewActiveChannelsPassThrough :
    (let s := demo 1 0x10 3 2 []
     s.Inv ∧ s.activeCount = 1 ∧ (1#16).toNat < s.period.toNat) ∧
    (let s := demo 1 0x00 3 1 []
     s.Inv ∧ s.activeCount = 0 ∧ (0#16).toNat < s.period.toNat) := by decide
/-- W20 and W21: the index equal to the period, and the period 0 of reset. -/
theorem witness_IndexOutOfRangeMovesOnlyTheWindow :
    (demo 1 0x03 1 3 []).period.toNat ≤ (3#16).toNat ∧ (State.resetPorts 1).period.toNat ≤ (0#16).toNat := by decide
/-- Two states that differ in the upper mode bits and in WINDOW. -/
theorem witness_WindowDependsOnConfigurationAlone :
    let s := demo 1 0x03 1 3 []
    let u := (demo 1 0x03 0xFD 3 []).storeWindow [0xAA#8]
    s.Inv ∧ u.Inv ∧ (2#16).toNat < s.period.toNat ∧ u.base = s.base ∧ u.period = s.period ∧
      u.mode.getLsbD 0 = s.mode.getLsbD 0 ∧ u.mode.getLsbD 1 = s.mode.getLsbD 1 ∧ u ≠ s := by decide
theorem witness_DriverAsksForSlotsOfThePeriod :
    (State.resetPorts 1).period.toNat = 0 ∧ (demo 1 0x03 1 3 []).period.toNat ≠ 0 := by decide
theorem witness_EncodeOfDecodedIsTheWord : decode 0x3000FFAA#32 = .ok (.setBaseState 0xFF#8 0xAA#8) := by rfl
theorem witness_SafeStepsAnswerDefinedResults :
    let s := demo 1 0x03 1 3 [.present 0x60000002#32 0]
    stepViolation s = none ∧ step s = .next (after s (step s)) := ⟨by decide, rfl⟩
/-- U1 and U3 are named: the breach of a step past the period, and of a port that does not exist. -/
theorem test_violations_are_named :
    stepViolation (demo 1 0x03 1 3 [.present 0x60000003#32 0]) = some .windowIndexOutOfRange ∧
    stepViolation (demo 1 0x03 1 3 [.present 0x30000100#32 0]) = some .portOutOfRange ∧
    stepViolation (demo 1 0x03 1 3 [.present 0x10000004#32 0]) = some .modeNotMasked ∧
    stepViolation (demo 1 0x03 1 3 [.present 0x00000000#32 0]) = some .illegalWord := by decide

end Sys2Proof.Machine.Tests
end

section
/-! PROOFS. The registers at reset (spec/10_state.md R25) and the status outputs (R19). -/

namespace Sys2Proof.Machine

/-! ### Reset (R25) -/

/-- The implementation's port count is in the range of R6. -/
theorem config_portCount_range : 1 ≤ Config.portCount ∧ Config.portCount ≤ 256 :=
  ⟨Nat.le_add_left 1 _, Config.portCountLessOne.isLt⟩

@[simp] theorem resetPorts_portCount (ports : Nat) : (State.resetPorts ports).portCount = ports := List.length_replicate

/-- The rank invariant at reset (R16): no channel of an all-zero BASE has a rank. -/
theorem resetPorts_ranksDerived (ports : Nat) : (State.resetPorts ports).RanksDerived := (derive_zeros ports).symm

/-- The period invariant at reset (R17): the floor is 0. -/
theorem resetPorts_periodCovers (ports : Nat) : (State.resetPorts ports).PeriodCovers :=
  (by decide : 0 + (modeS 0#8).toNat ≤ (0#16).toNat)

/-! ### Status outputs (R19) -/

/-- Byte `p` of a bulk word is port `p` (R32). -/
theorem busWord_byte (bm : Bitmap) (p : Nat) : busWord bm / 2 ^ (8 * p) % 256 = (bm.getD p 0#8).toNat := by
  induction bm generalizing p with
  | nil => simp [busWord]
  | cons v vs ih =>
    have hv := v.isLt
    cases p with
    | zero =>
      simp only [busWord, List.getD_cons_zero]
      omega
    | succ q =>
      have hpow : 2 ^ (8 * (q + 1)) = 256 * 2 ^ (8 * q) := by rw [Nat.mul_succ, Nat.pow_add, Nat.mul_comm]
      have htail : busWord (v :: vs) / 256 = busWord vs := by rw [busWord]; omega
      rw [hpow, ← Nat.div_div_eq_div_mul, htail, ih, List.getD_cons_succ]

/-- `window_o` has `8 × PORT_COUNT` bits. -/
theorem windowO_lt {s : State} (h : s.Shape) : s.windowO < 2 ^ (8 * s.portCount) := by
  obtain ⟨-, -, hwindow, -⟩ := h
  rw [← hwindow]
  exact busWord_lt s.window

/-- `active_count_o` loses nothing: the period invariant (R17) puts ACTIVE_COUNT at or below a 16-bit register. -/
theorem activeCountO_toNat {s : State} (h : s.PeriodCovers) : s.activeCountO.toNat = s.activeCount := by
  have hp := s.period.isLt
  have hlt : s.activeCount < 2 ^ 16 := by omega
  rw [State.activeCountO, BitVec.toNat_ofNat, Nat.mod_eq_of_lt hlt]

end Sys2Proof.Machine

open Sys2Proof Sys2Proof.Machine

/-- Settles O40: byte by byte along the ports, with the invariant for the widths. -/
theorem statusOutputsShowTheState : Obligations.StatusOutputsShowTheState := by
  rintro s ⟨hshape, -, hperiod⟩
  exact ⟨windowO_lt hshape, fun p _ => busWord_byte s.window p, rfl, activeCountO_toNat hperiod⟩

/-- Settles O11: the registers by the definition of reset, the two invariants for every port count. -/
theorem resetValuesAreTheSpecs : Obligations.ResetValuesAreTheSpecs := by
  have hports : State.reset.portCount = Config.portCount := resetPorts_portCount _
  obtain ⟨hpos, hle⟩ := config_portCount_range
  unfold Obligations.ResetValuesAreTheSpecs
  rw [State.channelCount, hports]
  exact ⟨hpos, hle, rfl, rfl, rfl, rfl, rfl, rfl, resetPorts_ranksDerived _, resetPorts_periodCovers _⟩
end

section
/-! PROOFS. The illegal words (spec/30_encoding.md R55) and the step at an accepted word (R46, R51). -/

namespace Sys2Proof

/-- The decoder refuses a word exactly when its fields fit no row of the opcode map (R50, R51). -/
theorem decode_eq_error_iff_fields (w : CmdWord) : (∃ e, decode w = .error e) ↔
    ¬ (cmdRsv w = 0#12 ∧ (cmdOp w = 1#4 ∧ cmdArgHigh w = 0#8 ∨
      (cmdOp w = 2#4 ∨ cmdOp w = 5#4) ∧ cmdArg w = 0#16 ∨ cmdOp w = 3#4 ∨ cmdOp w = 4#4 ∨ cmdOp w = 6#4)) := by
  rw [decode_fields]
  split_ifs with hConfigure hSetStates hSetState hPeriod hGetStates hWindow
  case neg => exact iff_of_true ⟨_, rfl⟩ (by tauto)
  all_goals exact iff_of_false (by simp) (by simp [*])

end Sys2Proof

namespace Sys2Proof.Machine

/-- The words that the decoder refuses are those of the rule, the fields taken as numbers (R47, R55). -/
theorem decode_eq_error_iff_illegalByTheRule (w : CmdWord) : (∃ e, decode w = .error e) ↔ IllegalByTheRule w := by
  obtain ⟨hop, hrsv, harg, hhigh, -⟩ := cmd_fields_toNat w
  simp only [decode_eq_error_iff_fields, IllegalByTheRule, BitVec.toNat_eq, BitVec.toNat_ofNat, hop, hrsv, harg, hhigh]
  omega

/-- A word presented to a ready port is accepted and run (R46, R51). -/
theorem step_of_present {s : State} {cmd : CmdWord} {wdata : Nat} {rest : List Edge}
    (hin : s.inputs = .present cmd wdata :: rest) (hready : s.cmdReady = true) :
    step s = runWord cmd (s.accept wdata rest) := by
  have hedge : s.edge = (some cmd, s.accept wdata rest) := by simp [State.edge, hin, hready]
  simp only [step, hedge]

/-- A word that does not decode is answered ILLEGAL (R55, R114). -/
theorem runWord_of_decode_error {cmd : CmdWord} {e : Illegal} (h : decode cmd = .error e) (s : State) :
    runWord cmd s = .next (s.answerError .illegal) := by
  simp only [runWord, h]

end Sys2Proof.Machine

open Sys2Proof Sys2Proof.Machine

/-- Settles O3: the decoder's refusals by the fields of the word; the step by acceptance, then the error answer. -/
theorem illegalWordsChangeNothing : Obligations.IllegalWordsChangeNothing := by
  refine ⟨decode_eq_error_iff_illegalByTheRule, fun s cmd wdata rest hin hready hillegal => ?_⟩
  obtain ⟨e, he⟩ := (decode_eq_error_iff_illegalByTheRule cmd).2 hillegal
  calc step s = runWord cmd (s.accept wdata rest) := step_of_present hin hready
    _ = .next ((s.accept wdata rest).answerError .illegal) := runWord_of_decode_error he _
end

section
/-! PROOFS. The control-plane commands (spec/40_control_plane.md R65 to R69): their words (spec/30_encoding.md R47, R50),
the period each mutator leaves (R68, R85), and the next state of each. -/

namespace Sys2Proof

/-! ### Command words (R47, R50) -/

theorem decode_encode (i : Instr) : decode (encode i) = .ok i := by
  rw [decode_fields]
  cases i <;> simp [encode]

/-- The fields that select a row of the opcode map, with its operands, make up the whole word (R50). -/
theorem eq_encode_of_decode {w : CmdWord} {i : Instr} (h : decode w = .ok i) : w = encode i := by
  rw [decode_fields] at h
  split_ifs at h with hConfigure hSetStates hSetState hPeriod hGetStates hWindow <;> cases h
  · obtain ⟨hop, hrsv, hhigh⟩ := hConfigure
    exact (eq_cmdWord_iff ..).2 ⟨hop, hrsv, (arg_eq_append_iff ..).2 ⟨hhigh, rfl⟩⟩
  · exact (eq_cmdWord_iff ..).2 hSetStates
  · obtain ⟨hop, hrsv⟩ := hSetState
    exact (eq_cmdWord_iff ..).2 ⟨hop, hrsv, (arg_fields w).symm⟩
  · obtain ⟨hop, hrsv⟩ := hPeriod
    exact (eq_cmdWord_iff ..).2 ⟨hop, hrsv, rfl⟩
  · exact (eq_cmdWord_iff ..).2 hGetStates
  · obtain ⟨hop, hrsv⟩ := hWindow
    exact (eq_cmdWord_iff ..).2 ⟨hop, hrsv, rfl⟩

theorem decode_eq_ok_iff (w : CmdWord) (i : Instr) : decode w = .ok i ↔ w = encode i :=
  ⟨eq_encode_of_decode, fun h => h ▸ decode_encode i⟩

theorem cmdWord_eq_or (op : BitVec 4) (arg : Half) :
    cmdWord op arg = op.setWidth 32 <<< 28 ||| arg.setWidth 32 := by
  rw [← BitVec.setWidth_eq (cmdWord op arg), cmdWord, BitVec.setWidth_append_eq_shiftLeft_setWidth_or,
    BitVec.setWidth_append_eq_shiftLeft_setWidth_or, BitVec.setWidth_zero, BitVec.zero_shiftLeft, BitVec.zero_or]

theorem encode_configure (mode : Byte) : encode (.configure mode) = 0x10000000#32 ||| mode.setWidth 32 := by
  rw [encode, cmdWord_eq_or, BitVec.setWidth_append_eq_shiftLeft_setWidth_or, BitVec.setWidth_zero,
    BitVec.zero_shiftLeft, BitVec.zero_or]
  rfl

theorem encode_setBaseState (port byte : Byte) :
    encode (.setBaseState port byte) = 0x30000000#32 ||| (port.setWidth 32 <<< 8) ||| byte.setWidth 32 := by
  rw [encode, cmdWord_eq_or, BitVec.setWidth_append_eq_shiftLeft_setWidth_or, ← BitVec.or_assoc]
  rfl

theorem encode_setPeriod (requested : Half) :
    encode (.setPeriod requested) = 0x40000000#32 ||| requested.setWidth 32 := cmdWord_eq_or 4#4 requested

end Sys2Proof

namespace Sys2Proof.Machine

/-! ### The bytes written to BASE (R66, R67) -/

/-- Port `q` of the bitmap taken from a bulk word is the word's byte `q` (R32). -/
theorem ofBusWord_port (ports w q : Nat) (h : q < ports) :
    ((ofBusWord ports w).getD q 0#8).toNat = w / 2 ^ (8 * q) % 256 := by
  induction ports generalizing w q with
  | zero => omega
  | succ n ih =>
    cases q with
    | zero => simp [ofBusWord]
    | succ q =>
      rw [ofBusWord, List.getD_cons_succ, ih _ _ (by omega), Nat.div_div_eq_div_mul, Nat.mul_succ, Nat.pow_add,
        Nat.mul_comm]

/-- A port reads as the byte written to it; the others as before (R67). -/
theorem getD_set_port (bm : Bitmap) (port q : Nat) (v : Byte) (h : q < bm.length) :
    (bm.set port v).getD q 0#8 = if q = port then v else bm.getD q 0#8 := by
  by_cases hq : q = port
  · subst hq
    simp [h]
  · simp [hq, Ne.symm hq]

/-! ### The period after a mutator (R68, R85) -/

/-- Writing a BASE of the same port count and deriving its ranks keeps the sizes of the register files (R6). -/
theorem deriveRanks_storeBase_shape {s : State} {b : Bitmap} (h : s.Shape) (hb : b.length = s.portCount) :
    (s.storeBase b).deriveRanks.Shape := by
  obtain ⟨hpos, hle, hwindow, -, hwdata⟩ := h
  have hcount : (s.storeBase b).deriveRanks.portCount = s.portCount := hb
  refine ⟨?_, ?_, ?_, derive_length b, ?_⟩ <;> rwa [hcount]

/-- PERIOD after a write to BASE: the floor is that of the new active count (R66, R67). -/
theorem revalidatePeriod_storeBase_toNat {s : State} {b : Bitmap} (h : s.Shape) (hb : b.length = s.portCount) :
    (s.storeBase b).deriveRanks.revalidatePeriod.period.toNat = max s.period.toNat ((derive b).2 + s.flagS.toNat) :=
  revalidatePeriod_toNat _ (floor_lt (deriveRanks_storeBase_shape h hb) rfl)

/-- PERIOD after a write to MODE: the floor is that of the new S (R65). -/
theorem revalidatePeriod_storeMode_toNat {s : State} (hshape : s.Shape) (hranks : s.RanksDerived) (mode : Byte) :
    (s.storeMode mode).revalidatePeriod.period.toNat = max s.period.toNat (s.activeCount + (modeS mode).toNat) :=
  revalidatePeriod_toNat _ (floor_lt (s := s.storeMode mode) hshape hranks)

/-- PERIOD after SET_PERIOD, where the floor fits the register (R68). -/
theorem clampPeriod_toNat {s : State} (requested : Half) (h : s.floor < 2 ^ 16) :
    (s.clampPeriod requested).period.toNat = max requested.toNat s.floor := by
  have := requested.isLt
  rw [State.clampPeriod_period, BitVec.toNat_ofNat, Nat.mod_eq_of_lt (by omega)]

end Sys2Proof.Machine

open Sys2Proof Sys2Proof.Machine

/-- Settles O20: the word is the encoder's; the period is re-validated under the new MODE. -/
theorem configureStoresModeAndRevalidates : Obligations.ConfigureStoresModeAndRevalidates := by
  refine fun mode => ⟨fun w => ?_, ?_⟩
  · rw [decode_eq_ok_iff, encode_configure]
  · rintro s ⟨hshape, hranks, -⟩
    exact ⟨_, rfl, revalidatePeriod_storeMode_toNat hshape hranks mode⟩

/-- Settles O21: the word is the encoder's; BASE is the bulk operand, of the same port count. -/
theorem setBaseStatesStoresTheBulkWord : Obligations.SetBaseStatesStoresTheBulkWord := by
  refine ⟨fun w => decode_eq_ok_iff w .setBaseStates, ?_⟩
  rintro s ⟨hshape, -, -⟩
  have hlen : s.bitmapOperand.length = s.portCount := ofBusWord_length _ _
  exact ⟨s.bitmapOperand, _, rfl, hlen, ofBusWord_port _ _, revalidatePeriod_storeBase_toNat hshape hlen⟩

/-- Settles O22: the word is the encoder's; then by whether the port exists, one byte of BASE being set where it does. -/
theorem setBaseStateStoresOnePort : Obligations.SetBaseStateStoresOnePort := by
  refine fun port byte => ⟨fun w => ?_, ?_⟩
  · rw [decode_eq_ok_iff, encode_setBaseState]
  · rintro s ⟨hshape, -, -⟩
    split_ifs with hport
    · exact execSetBaseState_out_of_range s port byte hport
    · have hlen : (s.base.set port.toNat byte).length = s.portCount := List.length_set
      exact ⟨_, _, execSetBaseState_in_range s port byte (Nat.lt_of_not_le hport), hlen,
        fun q => getD_set_port s.base port.toNat q byte, revalidatePeriod_storeBase_toNat hshape hlen⟩

/-- Settles O23: the word is the encoder's; the new PERIOD is the larger of the request and the floor. -/
theorem setPeriodClampsUpward : Obligations.SetPeriodClampsUpward := by
  refine fun requested => ⟨fun w => ?_, ?_⟩
  · rw [decode_eq_ok_iff, encode_setPeriod]
  · rintro s ⟨hshape, hranks, -⟩
    have hperiod := clampPeriod_toNat requested (floor_lt hshape hranks)
    exact ⟨_, rfl, hperiod, (le_max_right _ _).trans_eq hperiod.symm,
      fun hfloor => BitVec.eq_of_toNat_eq (hperiod.trans (max_eq_left hfloor))⟩

/-- Settles O24: the word is the encoder's; the bulk word of BASE byte by byte. -/
theorem getBaseStatesReadsBack : Obligations.GetBaseStatesReadsBack :=
  ⟨fun w => decode_eq_ok_iff w .getBaseStates,
    fun s => ⟨_, rfl, busWord_lt s.base, fun p _ => busWord_byte s.base p⟩⟩
end

section
/-! PROOFS. The ranks in scan order (spec/41_rank_mapper.md R80, R82): the number of active channels at the first scan
positions, in the bits of the ports. -/

namespace Sys2Proof.Machine

/-- The number of active channels at the scan positions before `k` (R33, R80). -/
def activeBefore (bm : Bitmap) (k : Nat) : Nat := (List.range k).countP fun j => bitAt bm (scanChannel j)

theorem activeBefore_succ (bm : Bitmap) (k : Nat) :
    activeBefore bm (k + 1) = activeBefore bm k + (bitAt bm (scanChannel k)).toNat := by
  cases h : bitAt bm (scanChannel k) <;> simp [activeBefore, List.range_succ, h]

/-- Position `i` of a port's scan is the port's bit `7 - i` (R33). -/
theorem scanChannel_port (p i : Nat) (hi : i < 8) : scanChannel (8 * p + i) = 8 * p + (7 - i) := by
  rw [scanChannel]
  omega

theorem bitAt_port (bm : Bitmap) (p b : Nat) (hb : b < 8) : bitAt bm (8 * p + b) = (bm.getD p 0#8).getLsbD b := by
  rw [bitAt, show (8 * p + b) / 8 = p by omega, show (8 * p + b) % 8 = b by omega]

/-- Within a port, the 1 bits already scanned and those still below make up the port's 1 bits. -/
theorem activeBefore_within_port (bm : Bitmap) (p i : Nat) (hi : i ≤ 8) :
    activeBefore bm (8 * p + i) + onesBelow (bm.getD p 0#8) (8 - i) =
      activeBefore bm (8 * p) + onesBelow (bm.getD p 0#8) 8 := by
  induction i with
  | zero => rfl
  | succ i ih =>
    have hbit : bitAt bm (scanChannel (8 * p + i)) = (bm.getD p 0#8).getLsbD (7 - i) := by
      rw [scanChannel_port p i hi, bitAt_port bm p _ (by omega)]
    rw [← ih (by omega), ← Nat.add_assoc, activeBefore_succ, hbit, show 8 - i = 7 - i + 1 by omega, onesBelow,
      show 8 - (i + 1) = 7 - i by omega]
    omega

theorem onesOf_take_succ (bm : Bitmap) (p : Nat) :
    onesOf (bm.take (p + 1)) = onesOf (bm.take p) + onesBelow (bm.getD p 0#8) 8 := by
  induction bm generalizing p with
  | nil => simp [onesOf, onesBelow]
  | cons v vs ih =>
    cases p with
    | zero => simp [onesOf]
    | succ p => rw [List.take_succ_cons, onesOf, ih, List.take_succ_cons, onesOf, List.getD_cons_succ, Nat.add_assoc]

/-- Before port `p` the scan has met the 1 bits of the lower ports. -/
theorem activeBefore_ports (bm : Bitmap) (p : Nat) : activeBefore bm (8 * p) = onesOf (bm.take p) := by
  induction p with
  | zero => simp [activeBefore, onesOf]
  | succ p ih => rw [onesOf_take_succ, ← ih, ← activeBefore_within_port bm p 8 le_rfl]; rfl

/-- R80: the channel at scan position `k` is ranked by the active channels scanned before it. -/
theorem derive_rank_scanChannel (bm : Bitmap) (k : Nat) (hk : k < 8 * bm.length) :
    (derive bm).1.getD (scanChannel k) none =
      if bitAt bm (scanChannel k) then some (activeBefore bm k) else none := by
  obtain ⟨p, i, hi, rfl⟩ : ∃ p i, i < 8 ∧ k = 8 * p + i := ⟨k / 8, k % 8, by omega, by omega⟩
  have hscanned := activeBefore_within_port bm p i hi.le
  have hrank : activeBefore bm (8 * p + i) = 0 + onesOf (bm.take p) +
      (onesBelow (bm.getD p 0#8) 8 - onesBelow (bm.getD p 0#8) (7 - i + 1)) := by
    rw [← activeBefore_ports, show 7 - i + 1 = 8 - i by omega]
    have := onesBelow_mono (bm.getD p 0#8) (Nat.sub_le 8 i)
    omega
  rw [scanChannel_port p i hi, bitAt_port bm p _ (by omega), hrank, derive,
    deriveFrom_rank bm 0 p _ (by omega) (by omega)]

/-- The whole scan meets every active channel (R80). -/
theorem derive_count_scan (bm : Bitmap) : (derive bm).2 = activeBefore bm (8 * bm.length) := by
  rw [derive_count, activeBefore_ports, List.take_length]

end Sys2Proof.Machine

open Sys2Proof Sys2Proof.Machine

/-- Settles O16: the rank at a scan position and the count are both the active channels the scan has met. -/
theorem ranksFollowTheScan : Obligations.RanksFollowTheScan :=
  fun base => ⟨derive_rank_scanChannel base, derive_count_scan base⟩
end

section
/-! PROOFS. The window generator (spec/42_window_generator.md): the channel of each rank (R82), the bit of each channel in
closed form (R90), and COMPUTE_WINDOW in each region of the period (R92) and outside it (R99). -/

namespace Sys2Proof.Machine

/-! ### The channel of a rank (R82) -/

/-- Reversing the bits of each port twice gives the channel back (R33). -/
theorem scanChannel_scanChannel (c : Nat) : scanChannel (scanChannel c) = c := by
  simp only [scanChannel]
  omega

theorem scanChannel_lt {c ports : Nat} (h : c < 8 * ports) : scanChannel c < 8 * ports := by
  simp only [scanChannel]
  omega

/-- A channel has a rank exactly when it is active: the active channels scanned before it (R80, R82 item 3). -/
theorem derive_rank_eq_some_iff (bm : Bitmap) (c r : Nat) :
    (derive bm).1.getD c none = some r ↔ bitAt bm c = true ∧ activeBefore bm (scanChannel c) = r := by
  by_cases hc : c < 8 * bm.length
  · have hrank := derive_rank_scanChannel bm (scanChannel c) (scanChannel_lt hc)
    rw [scanChannel_scanChannel] at hrank
    rw [hrank]
    split <;> simp [*]
  · have hlen := derive_length bm
    rw [List.getD_eq_default _ _ (by omega), bitAt_of_ge bm c (by omega)]
    simp

theorem activeBefore_eq_count (bm : Bitmap) (k : Nat) :
    activeBefore bm k = Nat.count (fun j => bitAt bm (scanChannel j) = true) k := by
  simp [activeBefore, Nat.count]

/-- No two channels share a rank (R82 item 1). -/
theorem derive_rank_injective {bm : Bitmap} {c d r : Nat} (hc : (derive bm).1.getD c none = some r)
    (hd : (derive bm).1.getD d none = some r) : c = d := by
  rw [derive_rank_eq_some_iff, activeBefore_eq_count] at hc hd
  obtain ⟨hcActive, hcRank⟩ := hc
  obtain ⟨hdActive, hdRank⟩ := hd
  have hscan : scanChannel c = scanChannel d :=
    Nat.count_injective (by rwa [scanChannel_scanChannel]) (by rwa [scanChannel_scanChannel]) (hcRank.trans hdRank.symm)
  rw [← scanChannel_scanChannel c, hscan, scanChannel_scanChannel]

/-- Every number below the active count is some channel's rank: the one at the scan's active position of that number
(R82 item 1). -/
theorem exists_channel_of_rank {bm : Bitmap} {r : Nat} (h : r < (derive bm).2) :
    ∃ c < 8 * bm.length, (derive bm).1.getD c none = some r := by
  rw [derive_count_scan, activeBefore_eq_count] at h
  have hlt : ∀ hf, r < Finset.card (Set.Finite.toFinset hf) := fun hf => h.trans_le (Nat.count_le_card hf _)
  refine ⟨scanChannel (Nat.nth _ r), scanChannel_lt (Nat.nth_lt_of_lt_count h), ?_⟩
  rw [derive_rank_eq_some_iff, scanChannel_scanChannel, activeBefore_eq_count]
  exact ⟨Nat.nth_mem r hlt, Nat.count_nth hlt⟩

/-- With no active channel every bit is 0 (R82 item 2). -/
theorem bitAt_of_derive_count_eq_zero {bm : Bitmap} (h : (derive bm).2 = 0) (c : Nat) : bitAt bm c = false := by
  by_cases hc : c < 8 * bm.length
  · rw [derive_count_scan, activeBefore_eq_count, Nat.count_iff_forall_not] at h
    simpa [scanChannel_scanChannel] using h (scanChannel c) (scanChannel_lt hc)
  · exact bitAt_of_ge bm c (Nat.le_of_not_lt hc)

/-! ### The window bit by bit (R90) -/

/-- The algorithm of R90 for one channel, in plain numbers: steps 1a, 1b and 2. -/
theorem windowBit_eq (s : State) (w c : Nat) :
    s.windowBit w c =
      if 1 < s.activeCount ∧ s.period.toNat ≤ w + s.activeCount then
        (if s.rankOf c = some (w + s.activeCount - s.period.toNat) then !s.flagS else s.flagS && s.baseBit c)
      else if 1 < s.activeCount ∧ s.flagA = true ∧ w + s.activeCount + s.flagS.toNat < s.period.toNat then false
      else s.baseBit c := by
  simp only [State.windowBit, inMeasurement_iff, inForcedOff_iff]
  refine ite_congr rfl (fun hregion => ?_) fun _ => rfl
  simp only [isolated_iff s w c hregion.2]

/-- Where every channel passes through, the window is the base bitmap (R96, R98). -/
theorem windowBitmap_eq_base {s : State} {w : Nat} (h : ∀ c, s.windowBit w c = s.baseBit c) :
    s.windowBitmap w = s.base := by
  rw [State.windowBitmap, funext h]
  exact ofChannels_bitAt s.base

/-- Where every channel is off, the window is all zero (R97). -/
theorem windowBitmap_eq_zeros {s : State} {w : Nat} (h : ∀ c, s.windowBit w c = false) :
    s.windowBitmap w = List.replicate s.portCount 0#8 := by
  have hbyte : byteOfBits (fun _ => false) = 0#8 := by decide
  rw [State.windowBitmap, funext h, ofChannels, hbyte, List.map_const', List.length_range]

/-- In a measurement slot exactly one channel is isolated (R94): the slot's number in the region is a rank. -/
theorem exists_isolated_channel {s : State} {w : Nat} (hranks : s.RanksDerived) (hw : w < s.period.toNat)
    (hregion : s.period.toNat ≤ w + s.activeCount) :
    ∃ c < s.channelCount, s.rankOf c = some (w + s.activeCount - s.period.toNat) ∧ s.baseBit c = true ∧
      ∀ d, s.rankOf d = some (w + s.activeCount - s.period.toNat) → d = c := by
  have hslot : w + s.activeCount - s.period.toNat < (derive s.base).2 := by
    rw [← activeCount_eq hranks]
    omega
  obtain ⟨c, hc, hrank⟩ := exists_channel_of_rank hslot
  simp only [rankOf_eq hranks]
  exact ⟨c, hc, hrank, ((derive_rank_eq_some_iff ..).1 hrank).1, fun d hd => derive_rank_injective hd hrank⟩

/-- The bitmap of a slot is fixed by BASE, PERIOD and the two mode flags (R100). -/
theorem windowBitmap_congr {s u : State} (hs : s.RanksDerived) (hu : u.RanksDerived) (hbase : u.base = s.base)
    (hperiod : u.period = s.period) (hS : u.flagS = s.flagS) (hA : u.flagA = s.flagA) (w : Nat) :
    u.windowBitmap w = s.windowBitmap w := by
  have hcount : u.activeCount = s.activeCount := by rw [activeCount_eq hu, activeCount_eq hs, hbase]
  have hrank (c : Nat) : u.rankOf c = s.rankOf c := by rw [rankOf_eq hu, rankOf_eq hs, hbase]
  have hbit : u.windowBit w = s.windowBit w :=
    funext fun c => by simp only [windowBit_eq, hcount, hrank, hperiod, hS, hA, State.baseBit, hbase]
  exact congrArg₂ ofChannels (congrArg List.length hbase) hbit

/-! ### COMPUTE_WINDOW (R90, R99) -/

/-- On a slot of the period only WINDOW and the response change (R90). -/
theorem exec_computeWindow {s : State} {w : Half} (h : w.toNat < s.period.toNat) :
    exec (.computeWindow w) s =
      .next { s with
        window := s.windowBitmap w.toNat, rsp := some ⟨.ok, 0#16, busWord (s.windowBitmap w.toNat)⟩ } :=
  execComputeWindow_in_range s w h

/-- On a slot that passes through, WINDOW and the response are the base bitmap (R96, R98). -/
theorem exec_computeWindow_base {s : State} {w : Half} (hw : w.toNat < s.period.toNat)
    (h : ∀ c, s.windowBit w.toNat c = s.baseBit c) :
    exec (.computeWindow w) s =
      .next { s with window := s.base, rsp := some ⟨.ok, 0#16, busWord s.base⟩ } := by
  rw [exec_computeWindow hw, windowBitmap_eq_base h]

end Sys2Proof.Machine

namespace Sys2Proof

theorem encode_computeWindow (w : Half) : encode (.computeWindow w) = 0x60000000#32 ||| w.setWidth 32 :=
  cmdWord_eq_or 6#4 w

end Sys2Proof

open Sys2Proof Sys2Proof.Machine

/-- Settles O32: the word is the encoder's; each bit by the closed form of the algorithm. -/
theorem computeWindowFollowsTheAlgorithm : Obligations.ComputeWindowFollowsTheAlgorithm := by
  refine fun w => ⟨fun cmd => ?_, fun s _ hw => ?_⟩
  · rw [decode_eq_ok_iff, encode_computeWindow]
  · have hlen := windowBitmap_length s w.toNat
    refine ⟨s.windowBitmap w.toNat, _, exec_computeWindow hw, hlen, hlen ▸ busWord_lt _,
      fun c hc => ⟨busWord_testBit _ c, ?_⟩⟩
    rw [bitAt_windowBitmap s _ c hc, windowBit_eq]

/-- Settles O33: the ranking has one channel for the slot; the bits by step 1a of the algorithm. -/
theorem measurementSlotIsolatesOneChannel : Obligations.MeasurementSlotIsolatesOneChannel := by
  rintro s w ⟨-, hranks, -⟩ hactive hw hregion
  obtain ⟨c, hc, hrank, hbase, hunique⟩ := exists_isolated_channel hranks hw hregion
  have hbit (d : Nat) (hd : d < s.channelCount) : bitAt (s.windowBitmap w.toNat) d =
      if s.rankOf d = some (w.toNat + s.activeCount - s.period.toNat) then !s.flagS else s.flagS && s.baseBit d := by
    rw [bitAt_windowBitmap s _ d hd, windowBit_eq, if_pos ⟨hactive, hregion⟩]
  refine ⟨_, c, exec_computeWindow hw, hc, hrank, hbase, (hbit c hc).trans (if_pos hrank), fun d hd hne => ?_⟩
  have hother := mt (hunique d) hne
  exact ⟨hother, (hbit d hd).trans (if_neg hother)⟩

/-- Settles O36: the slot is before the region of step 1a, so step 1b or step 2 gives every bit. -/
theorem slotsBeforeMeasurementFollowTheBoundary : Obligations.SlotsBeforeMeasurementFollowTheBoundary := by
  intro s w _ hactive hbefore
  have hw : w.toNat < s.period.toNat := by omega
  have hregion : ¬ (1 < s.activeCount ∧ s.period.toNat ≤ w.toNat + s.activeCount) := by omega
  constructor
  · intro hforced
    have hoff (c : Nat) : s.windowBit w.toNat c = false := by
      rw [windowBit_eq, if_neg hregion, if_pos ⟨hactive, hforced⟩]
    rw [exec_computeWindow hw, windowBitmap_eq_zeros hoff, busWord_zeros]
  · intro hpass
    refine exec_computeWindow_base hw fun c => ?_
    rw [windowBit_eq, if_neg hregion, if_neg]
    rintro ⟨-, hA, hlead⟩
    rcases hpass with hclear | hguard
    · simp [hA] at hclear
    · omega

/-- Settles O37: steps 1a and 1b both ask for more than one active channel; with none the base word has no bit. -/
theorem fewActiveChannelsPassThrough : Obligations.FewActiveChannelsPassThrough := by
  rintro s w ⟨-, hranks, -⟩ hfew hw
  refine ⟨exec_computeWindow_base hw fun c => ?_, fun hnone => ?_, fun hone => ?_⟩
  · rw [windowBit_eq, if_neg (by omega), if_neg (by omega)]
  · refine Nat.eq_of_testBit_eq fun c => ?_
    rw [busWord_testBit, bitAt_of_derive_count_eq_zero ((activeCount_eq hranks).symm.trans hnone), Nat.zero_testBit]
  · rw [State.floor, hone, State.countS]

/-- Settles O38: the free bitmap has one byte for each port, and the response is its word. -/
theorem indexOutOfRangeMovesOnlyTheWindow : Obligations.IndexOutOfRangeMovesOnlyTheWindow := by
  intro s w hw
  have hlen := freeWindow_length s
  exact ⟨s.freeWindow, _, _, execComputeWindow_out_of_range s w hw, hlen, hlen ▸ busWord_lt _⟩

/-- Settles O39: the ranks come from BASE, so both states compute one bitmap. -/
theorem windowDependsOnConfigurationAlone : Obligations.WindowDependsOnConfigurationAlone := by
  rintro s u w ⟨-, hs, -⟩ ⟨-, hu, -⟩ hw hbase hperiod hS hA
  have hbitmap := windowBitmap_congr hs hu hbase hperiod hS hA w.toNat
  refine ⟨_, _, exec_computeWindow hw, exec_computeWindow (hperiod ▸ hw), hbitmap, ?_⟩
  simp only [hbitmap]
end

section
/-! PROOFS. The error responses (spec/60_exceptions.md R110, R111): the cause of each status, and what an erroneous command
leaves as it was. -/

namespace Sys2Proof.Machine

/-! ### The causes (R111) -/

theorem rsp_answerError {s : State} {st : Status} {r : Response} (h : (s.answerError st).rsp = some r) :
    r = ⟨st, 0#16, 0⟩ :=
  (Option.some.inj h).symm

/-- A word that decodes is run as its command (R51). -/
theorem runWord_of_decode_ok {cmd : CmdWord} {i : Instr} (h : decode cmd = .ok i) (s : State) :
    runWord cmd s = exec i s := by
  simp only [runWord, h]

/-- No command that decodes is answered ILLEGAL (R111). -/
theorem exec_status_ne_illegal {i : Instr} {s t : State} {r : Response} (h : exec i s = .next t) (hr : t.rsp = some r) :
    r.status ≠ .illegal := by
  obtain hok | ⟨port, byte, -, -, rfl⟩ := exec_status h hr
  · simp [hok]
  · simp [rsp_answerError hr]

/-- A command is answered PORT_RANGE exactly when it is SET_BASE_STATE on a port that does not exist (R67, R111). -/
theorem exec_status_eq_portRange_iff {i : Instr} {s t : State} {r : Response} (h : exec i s = .next t)
    (hr : t.rsp = some r) :
    r.status = .portRange ↔ ∃ port byte, i = .setBaseState port byte ∧ s.portCount ≤ port.toNat := by
  constructor
  · intro hrange
    obtain hok | ⟨port, byte, hi, hport, -⟩ := exec_status h hr
    · simp [hok] at hrange
    · exact ⟨port, byte, hi, hport⟩
  · rintro ⟨port, byte, rfl, hport⟩
    have ht := h.symm.trans (execSetBaseState_out_of_range s port byte hport)
    injection ht with ht
    subst ht
    rw [rsp_answerError hr]

/-! ### What an error leaves (R110) -/

/-- A step that answers with an error has accepted a word and answered it, and done nothing else. -/
theorem step_eq_answerError {s t : State} {r : Response} (h : step s = .next t) (hr : t.rsp = some r)
    (herr : r.status ≠ .ok) :
    ∃ wdata rest, t = (s.accept wdata rest).answerError r.status ∧ r.rval = 0#16 ∧ r.rdata = 0 := by
  obtain ⟨rest, rfl⟩ | ⟨rest, -, rfl⟩ | ⟨cmd, wdata, rest, -, -, ⟨i, -, hexec⟩ | ⟨e, -, rfl⟩⟩ := step_cases h
  · simp at hr
  · simp at hr
  · obtain hok | ⟨port, byte, -, -, rfl⟩ := exec_status hexec hr
    · exact absurd hok herr
    · obtain rfl := rsp_answerError hr
      exact ⟨wdata, rest, rfl, rfl, rfl⟩
  · obtain rfl := rsp_answerError hr
    exact ⟨wdata, rest, rfl, rfl, rfl⟩

end Sys2Proof.Machine

open Sys2Proof Sys2Proof.Machine

/-- Settles O9: neither acceptance nor the error answer writes a register or `cmd_ready`. -/
theorem errorsChangeNoState : Obligations.ErrorsChangeNoState := by
  intro s t r hstep hr herr
  obtain ⟨wdata, rest, rfl, hrval, hrdata⟩ := step_eq_answerError hstep hr herr
  exact ⟨rfl, rfl, rfl, rfl, rfl, rfl, rfl, rfl, rfl, rfl, hrval, hrdata⟩

/-- Settles O10: by whether the word decodes; where it does, by what its command can answer. -/
theorem errorCausesAreComplete : Obligations.ErrorCausesAreComplete := by
  intro s cmd wdata rest hin hready
  have hstep := step_of_present hin hready
  cases hd : decode cmd with
  | error e =>
    have hillegal := (decode_eq_error_iff_illegalByTheRule cmd).1 ⟨e, hd⟩
    exact ⟨_, _, hstep.trans (runWord_of_decode_error hd _), rfl, iff_of_true rfl hillegal, by simp,
      fun _ => ⟨rfl, rfl⟩⟩
  | ok i =>
    obtain ⟨t, r, hexec, hr, -, -⟩ := exec_answers i (s.accept wdata rest)
    have hnext : step s = .next t := hstep.trans ((runWord_of_decode_ok hd _).trans hexec)
    have hlegal : ¬ IllegalByTheRule cmd := by simp [← decode_eq_error_iff_illegalByTheRule, hd]
    refine ⟨t, r, hnext, hr, iff_of_false (exec_status_ne_illegal hexec hr) hlegal, ?_, fun herr => ?_⟩
    · simp [exec_status_eq_portRange_iff hexec hr]
    · obtain ⟨-, -, -, hrval, hrdata⟩ := step_eq_answerError hnext hr herr
      exact ⟨hrval, hrdata⟩
end

section
/-! PROOFS. The reset edge, and the edge after it at which the port is not yet ready (spec/70_reset_and_hazards.md R125). -/

namespace Sys2Proof.Machine

/-- Where no command is accepted, the state after the edge stands. -/
theorem step_of_edge_none {s t : State} (h : s.edge = (none, t)) : step s = .next t := by
  simp only [step, h]

/-- An edge with `rst` = 1 resets the block, whatever its state (R125). -/
theorem step_of_reset {s : State} {rest : List Edge} (hin : s.inputs = .reset :: rest) :
    step s = .next (s.takeReset rest) :=
  step_of_edge_none (by simp only [State.edge, hin])

/-- An edge with `rst` = 0 at which the port is not ready executes no command (R125). -/
theorem step_of_not_ready {s : State} (hready : s.cmdReady = false) (hin : ∀ rest, s.inputs ≠ .reset :: rest) :
    ∃ rest, step s = .next (s.idle rest) := by
  obtain ⟨rest, hedge⟩ | ⟨rest, hreset, -⟩ | ⟨cmd, wdata, rest, -, hready', -⟩ := edge_cases s
  · exact ⟨rest, step_of_edge_none hedge⟩
  · exact absurd hreset (hin rest)
  · simp [hready] at hready'

end Sys2Proof.Machine

open Sys2Proof Sys2Proof.Machine

/-- Settles O12: the first edge resets the block and leaves the port not ready, so the next without `rst` is idle. -/
theorem resetEdgeClearsTheBlock : Obligations.ResetEdgeClearsTheBlock := by
  intro s rest hin
  have hwindow : (s.takeReset rest).windowO = 0 := busWord_zeros s.portCount
  refine ⟨s.takeReset rest, step_of_reset hin, rfl, rfl, rfl, rfl, rfl, rfl, rfl, hwindow, rfl, rfl, fun hnext => ?_⟩
  obtain ⟨later, hstep⟩ := step_of_not_ready (State.takeReset_cmdReady s rest) hnext
  exact ⟨_, hstep, rfl, rfl, rfl, rfl, rfl, rfl, rfl, rfl⟩
end

section
/-! PROOFS. Encoding (spec/30_encoding.md R47 to R51): decoder and encoder are each other's inverse, and what the assembler
gives (R57). -/

namespace Sys2Proof.Machine

/-- The word of an assembly line decodes to the command of the line (R57). -/
theorem assemble_of_wellFormed {ports : Nat} {src : Source} (h : src.wellFormed ports = true) :
    assemble ports src = some (.present (encode (sourceInstr src)) (sourceBulk src)) := by
  simp [assemble, h]

theorem assemble_eq_none {ports : Nat} {src : Source} (h : src.wellFormed ports = false) : assemble ports src = none := by
  simp [assemble, h]

/-- A numeral that fits its field is the number of the operand (R49, R57). -/
theorem operand_toNat {n k : Nat} (h : k < 2 ^ n) : (BitVec.ofNat n k).toNat = k := by
  rw [BitVec.toNat_ofNat, Nat.mod_eq_of_lt h]

end Sys2Proof.Machine

open Sys2Proof Sys2Proof.Machine

/-- Settles O1: field by field along the opcode map. -/
theorem decodeOfEncodeIsTheCommand : Obligations.DecodeOfEncodeIsTheCommand := decode_encode

/-- Settles O2: the fields that select a row and its operands make up the whole word. -/
theorem encodeOfDecodedIsTheWord : Obligations.EncodeOfDecodedIsTheWord :=
  fun _ _ h => (eq_encode_of_decode h).symm

/-- Settles O4: each word is the encoding of its command. -/
theorem tableWordsDecode : Obligations.TableWordsDecode := by
  simp only [Obligations.TableWordsDecode, decode_eq_ok_iff]
  decide

/-- Settles O5: an accepted line gives the encoding of its command, and its numerals fit their fields. -/
theorem assembledLinesDecodeAsWritten : Obligations.AssembledLinesDecodeAsWritten := by
  refine fun ports => ⟨fun src => assemble_eq_none, fun mode hmode => ?_, fun bitmap hbitmap => ?_,
    fun port hport byte hbyte => ?_, fun requested hrequested => ?_, ?_, fun index hindex => ?_⟩
  · exact ⟨_, _, assemble_of_wellFormed (decide_eq_true hmode), decode_encode _,
      operand_toNat (Nat.lt_succ_of_le hmode)⟩
  · exact ⟨_, assemble_of_wellFormed (decide_eq_true hbitmap), decode_encode _⟩
  · have hfits : (Source.setBaseState port byte).wellFormed ports = true := by simp [Source.wellFormed, hport, hbyte]
    exact ⟨_, _, _, assemble_of_wellFormed hfits, decode_encode _, operand_toNat (Nat.lt_succ_of_le hport),
      operand_toNat (Nat.lt_succ_of_le hbyte)⟩
  · exact ⟨_, _, assemble_of_wellFormed (decide_eq_true hrequested), decode_encode _,
      operand_toNat (Nat.lt_succ_of_le hrequested)⟩
  · exact ⟨_, assemble_of_wellFormed rfl, decode_encode _⟩
  · exact ⟨_, _, assemble_of_wellFormed (decide_eq_true hindex), decode_encode _,
      operand_toNat (Nat.lt_succ_of_le hindex)⟩
end

section
/-! PROOFS. Everything a command can have done to the state, said once, and what of it every command keeps: the port count,
the invariant of every command boundary (spec/10_state.md R16, R17), and the registers it may not write (R23). -/

namespace Sys2Proof.Machine

/-- The whole of CONFIGURE: the write to MODE, the period, the response (R65, R70). -/
def State.writeMode (s : State) (mode : Byte) : State := (s.storeMode mode).revalidatePeriod.respond .ok 0#16 0

/-- The whole of a command that writes BASE: the write, the ranks, the period, the response (R66, R67, R70). -/
def State.writeBase (s : State) (b : Bitmap) : State :=
  (s.storeBase b).deriveRanks.revalidatePeriod.respond .ok 0#16 0

theorem exec_configure (mode : Byte) (s : State) : exec (.configure mode) s = .next (s.writeMode mode) := rfl

theorem exec_setBaseStates (s : State) : exec .setBaseStates s = .next (s.writeBase s.bitmapOperand) := rfl

theorem exec_setBaseState {s : State} {port : Byte} (byte : Byte) (h : port.toNat < s.portCount) :
    exec (.setBaseState port byte) s = .next (s.writeBase (s.base.set port.toNat byte)) :=
  execSetBaseState_in_range s port byte h

/-- What a command leaves, by command (R65 to R69, R90, R99, R111). -/
inductive Effect (s : State) : Instr → State → Prop where
  | configure (mode : Byte) : Effect s (.configure mode) (s.writeMode mode)
  | writeBase {i : Instr} (b : Bitmap) (hlen : b.length = s.portCount)
    (hi : i = .setBaseStates ∨ ∃ port byte, i = .setBaseState port byte) : Effect s i (s.writeBase b)
  | portRange (port byte : Byte) (hport : s.portCount ≤ port.toNat) :
    Effect s (.setBaseState port byte) (s.answerError .portRange)
  | setPeriod (requested : Half) :
    Effect s (.setPeriod requested) ((s.clampPeriod requested).respond .ok (s.clampPeriod requested).period 0)
  | getBaseStates : Effect s .getBaseStates (s.respond .ok 0#16 (busWord s.base))
  | window (w : Half) (hw : w.toNat < s.period.toNat) :
    Effect s (.computeWindow w) (s.latchWindow (s.windowBitmap w.toNat))
  | freeWindow (w : Half) (hw : s.period.toNat ≤ w.toNat) :
    Effect s (.computeWindow w) (s.drawn.latchWindow s.freeWindow)

theorem exec_effect {i : Instr} {s t : State} (h : exec i s = .next t) : Effect s i t := by
  suffices hsome : ∃ u, exec i s = .next u ∧ Effect s i u by
    obtain ⟨u, hu, heffect⟩ := hsome
    rw [h] at hu
    cases hu
    exact heffect
  cases i with
  | configure mode => exact ⟨_, exec_configure mode s, .configure mode⟩
  | setBaseStates => exact ⟨_, exec_setBaseStates s, .writeBase s.bitmapOperand (ofBusWord_length _ _) (.inl rfl)⟩
  | setBaseState port byte =>
    by_cases hport : s.portCount ≤ port.toNat
    · exact ⟨_, execSetBaseState_out_of_range s port byte hport, .portRange port byte hport⟩
    · exact ⟨_, exec_setBaseState byte (Nat.lt_of_not_le hport),
        .writeBase _ List.length_set (.inr ⟨port, byte, rfl⟩)⟩
  | setPeriod requested => exact ⟨_, rfl, .setPeriod requested⟩
  | getBaseStates => exact ⟨_, rfl, .getBaseStates⟩
  | computeWindow w =>
    by_cases hw : w.toNat < s.period.toNat
    · exact ⟨_, execComputeWindow_in_range s w hw, .window w hw⟩
    · exact ⟨_, execComputeWindow_out_of_range s w (Nat.le_of_not_lt hw), .freeWindow w (Nat.le_of_not_lt hw)⟩

/-! ### The port count (R6) -/

theorem exec_portCount {i : Instr} {s t : State} (h : exec i s = .next t) : t.portCount = s.portCount := by
  cases exec_effect h with
  | writeBase b hlen hi => exact hlen
  | _ => rfl

theorem exec_window_length {i : Instr} {s t : State} (h : exec i s = .next t) (hs : s.window.length = s.portCount) :
    t.window.length = s.portCount := by
  cases exec_effect h with
  | window w hw => exact windowBitmap_length s w.toNat
  | freeWindow w hw => exact freeWindow_length s
  | _ => exact hs

/-! ### The invariant (R16, R17) -/

/-- The invariant at reset, for every port count of R6. -/
theorem resetPorts_inv {ports : Nat} (hpos : 1 ≤ ports) (hle : ports ≤ 256) : (State.resetPorts ports).Inv := by
  have hcount := resetPorts_portCount ports
  refine ⟨⟨hcount.symm ▸ hpos, hcount.symm ▸ hle, rfl, ?_, Nat.two_pow_pos _⟩, resetPorts_ranksDerived ports,
    resetPorts_periodCovers ports⟩
  rw [State.channelCount, hcount]
  exact List.length_replicate

theorem takeReset_inv {s : State} (h : s.Inv) (rest : List Edge) : (s.takeReset rest).Inv := by
  obtain ⟨⟨hpos, hle, -⟩, -⟩ := h
  exact resetPorts_inv hpos hle

/-- Acceptance keeps the invariant: the sampled bulk word is cut to the bus (R45, R46). -/
theorem accept_inv {s : State} (h : s.Inv) (wdata : Nat) (rest : List Edge) : (s.accept wdata rest).Inv := by
  obtain ⟨⟨hpos, hle, hwindow, hrank, -⟩, hinvs⟩ := h
  exact ⟨⟨hpos, hle, hwindow, hrank, Nat.mod_lt _ (Nat.two_pow_pos _)⟩, hinvs⟩

/-- REVALIDATE_PERIOD establishes the period invariant (R17, R85). -/
theorem revalidatePeriod_inv {s : State} (hshape : s.Shape) (hranks : s.RanksDerived) : s.revalidatePeriod.Inv :=
  ⟨hshape, hranks, (le_max_right _ _).trans_eq (revalidatePeriod_toNat s (floor_lt hshape hranks)).symm⟩

theorem clampPeriod_inv {s : State} (hshape : s.Shape) (hranks : s.RanksDerived) (requested : Half) :
    (s.clampPeriod requested).Inv :=
  ⟨hshape, hranks, (le_max_right _ _).trans_eq (clampPeriod_toNat requested (floor_lt hshape hranks)).symm⟩

theorem writeMode_inv {s : State} (h : s.Inv) (mode : Byte) : (s.writeMode mode).Inv := by
  obtain ⟨hshape, hranks, -⟩ := h
  exact revalidatePeriod_inv (s := s.storeMode mode) hshape hranks

theorem writeBase_inv {s : State} {b : Bitmap} (h : s.Shape) (hlen : b.length = s.portCount) : (s.writeBase b).Inv :=
  revalidatePeriod_inv (deriveRanks_storeBase_shape h hlen) rfl

theorem latchWindow_inv {s : State} {out : Bitmap} (h : s.Inv) (hlen : out.length = s.portCount) :
    (s.latchWindow out).Inv := by
  obtain ⟨⟨hpos, hle, -, hrest⟩, hinvs⟩ := h
  exact ⟨⟨hpos, hle, hlen, hrest⟩, hinvs⟩

theorem exec_inv {i : Instr} {s t : State} (h : s.Inv) (hexec : exec i s = .next t) : t.Inv := by
  have ⟨hshape, hranks, _⟩ := h
  cases exec_effect hexec with
  | configure mode => exact writeMode_inv h mode
  | writeBase b hlen hi => exact writeBase_inv hshape hlen
  | portRange port byte hport => exact h
  | setPeriod requested => exact clampPeriod_inv hshape hranks requested
  | getBaseStates => exact h
  | window w hw => exact latchWindow_inv h (windowBitmap_length s w.toNat)
  | freeWindow w hw => exact latchWindow_inv (s := s.drawn) h (freeWindow_length s)

theorem step_inv {s t : State} (h : s.Inv) (hstep : step s = .next t) : t.Inv := by
  obtain ⟨rest, rfl⟩ | ⟨rest, -, rfl⟩ | ⟨cmd, wdata, rest, -, -, ⟨i, -, hexec⟩ | ⟨e, -, rfl⟩⟩ := step_cases hstep
  · exact h
  · exact takeReset_inv h rest
  · exact exec_inv (accept_inv h wdata rest) hexec
  · exact accept_inv h wdata rest

/-! ### PERIOD (R14) -/

/-- Under the invariant only SET_PERIOD can lower PERIOD: the other mutators re-validate it (R85). -/
theorem period_le_of_exec {i : Instr} {s t : State} (h : s.Inv) (hexec : exec i s = .next t)
    (hi : ∀ requested, i ≠ .setPeriod requested) : s.period.toNat ≤ t.period.toNat := by
  obtain ⟨hshape, hranks, -⟩ := h
  cases exec_effect hexec with
  | configure mode => exact (le_max_left _ _).trans_eq (revalidatePeriod_storeMode_toNat hshape hranks mode).symm
  | writeBase b hlen hi => exact (le_max_left _ _).trans_eq (revalidatePeriod_storeBase_toNat hshape hlen).symm
  | setPeriod requested => exact absurd rfl (hi requested)
  | _ => exact le_rfl

end Sys2Proof.Machine

open Sys2Proof Sys2Proof.Machine

/-- Settles O14: by what a step can have done, each part of it keeping the invariant. -/
theorem stepKeepsTheInvariant : Obligations.StepKeepsTheInvariant := fun _ _ => step_inv

/-- Settles O13: the reset state of every port count has the invariant, and the implementation's count is in range. -/
theorem resetHoldsTheInvariant : Obligations.ResetHoldsTheInvariant := by
  obtain ⟨hpos, hle⟩ := config_portCount_range
  exact ⟨resetPorts_inv hpos hle, fun ports => resetPorts_inv⟩

/-- Settles O15: reset gives BASE and WINDOW the size they had, and so does every command. -/
theorem portCountIsFixed : Obligations.PortCountIsFixed := by
  intro s t hstep
  obtain ⟨rest, rfl⟩ | ⟨rest, -, rfl⟩ | ⟨cmd, wdata, rest, -, -, ⟨i, -, hexec⟩ | ⟨e, -, rfl⟩⟩ := step_cases hstep
  · exact ⟨rfl, id⟩
  · exact ⟨List.length_replicate, fun _ => List.length_replicate⟩
  · exact ⟨exec_portCount (s := s.accept wdata rest) hexec, exec_window_length (s := s.accept wdata rest) hexec⟩
  · exact ⟨rfl, id⟩

/-- Settles O29: an idle edge and an error keep PERIOD, and no command but SET_PERIOD lowers it. -/
theorem onlySetPeriodLowersThePeriod : Obligations.OnlySetPeriodLowersThePeriod := by
  intro s t h hstep hlower
  obtain ⟨rest, rfl⟩ | ⟨rest, hin, -⟩ | ⟨cmd, wdata, rest, hin, -, ⟨i, hdecode, hexec⟩ | ⟨e, -, rfl⟩⟩ :=
    step_cases hstep
  · exact absurd hlower (lt_irrefl _)
  · exact .inl ⟨rest, hin⟩
  · by_contra hother
    refine absurd (period_le_of_exec (accept_inv h wdata rest) hexec ?_) (Nat.not_le.2 hlower)
    rintro requested rfl
    exact hother (.inr ⟨cmd, wdata, rest, requested, hin, hdecode⟩)
  · exact absurd hlower (lt_irrefl _)

/-- Settles O30: by what each command leaves. -/
theorem eachRegisterHasItsWriters : Obligations.EachRegisterHasItsWriters := by
  intro s t i hexec
  cases exec_effect hexec with
  | configure mode => exact ⟨.inl ⟨rfl, rfl, rfl⟩, .inr ⟨mode, rfl⟩, by simp, .inl rfl⟩
  | writeBase b hlen hi => exact ⟨.inr hi, .inl rfl, by rcases hi with rfl | ⟨port, byte, rfl⟩ <;> simp, .inl rfl⟩
  | portRange port byte hport => exact ⟨.inl ⟨rfl, rfl, rfl⟩, .inl rfl, fun _ => rfl, .inl rfl⟩
  | setPeriod requested => exact ⟨.inl ⟨rfl, rfl, rfl⟩, .inl rfl, by simp, .inl rfl⟩
  | getBaseStates => exact ⟨.inl ⟨rfl, rfl, rfl⟩, .inl rfl, fun _ => rfl, .inl rfl⟩
  | window w hw => exact ⟨.inl ⟨rfl, rfl, rfl⟩, .inl rfl, fun _ => rfl, .inr ⟨w, rfl⟩⟩
  | freeWindow w hw => exact ⟨.inl ⟨rfl, rfl, rfl⟩, .inl rfl, fun _ => rfl, .inr ⟨w, rfl⟩⟩
end

section
/-! PROOFS. The step at an accepted word (spec/30_encoding.md R46, R51), the edges at which no command is accepted (R38,
R113), and a step within the caller's contract (spec/93_implementation_defined.md U1 to U4). -/

namespace Sys2Proof.Machine

/-! ### Acceptance (R46, R51) -/

/-- An accepted word that decodes runs its command, at the state that has sampled `wdata`. -/
theorem step_of_decode_ok {s : State} {cmd : CmdWord} {wdata : Nat} {rest : List Edge} {i : Instr}
    (hin : s.inputs = .present cmd wdata :: rest) (hready : s.cmdReady = true) (h : decode cmd = .ok i) :
    step s = exec i (s.accept wdata rest) :=
  (step_of_present hin hready).trans (runWord_of_decode_ok h _)

/-- An accepted word is answered, whether it decodes or not (R43, R55). -/
theorem runWord_answers (cmd : CmdWord) (s : State) :
    ∃ t r, runWord cmd s = .next t ∧ t.rsp = some r ∧ t.inputs = s.inputs ∧ t.cmdReady = s.cmdReady := by
  cases hd : decode cmd with
  | ok i =>
    rw [runWord_of_decode_ok hd]
    exact exec_answers i s
  | error e => exact ⟨_, _, runWord_of_decode_error hd s, rfl, rfl, rfl⟩

/-! ### Undefined bitmaps (R99) -/

/-- An undefined bitmap is drawn only by COMPUTE_WINDOW on an index outside the period. -/
theorem exec_freeCount {i : Instr} {s t : State} (h : exec i s = .next t)
    (hi : ∀ w, i = .computeWindow w → w.toNat < s.period.toNat) : t.freeCount = s.freeCount := by
  cases exec_effect h with
  | freeWindow w hw => exact absurd (hi w rfl) (Nat.not_lt.2 hw)
  | _ => rfl

/-! ### The caller's contract (U1 to U4) -/

theorem edge_of_present {s : State} {cmd : CmdWord} {wdata : Nat} {rest : List Edge}
    (hin : s.inputs = .present cmd wdata :: rest) (hready : s.cmdReady = true) :
    s.edge = (some cmd, s.accept wdata rest) := by
  simp [State.edge, hin, hready]

theorem stepViolation_of_decode_ok {s : State} {cmd : CmdWord} {wdata : Nat} {rest : List Edge} {i : Instr}
    (hin : s.inputs = .present cmd wdata :: rest) (hready : s.cmdReady = true) (h : decode cmd = .ok i) :
    stepViolation s = violation i (s.accept wdata rest) := by
  simp only [stepViolation, edge_of_present hin hready, h]

theorem stepViolation_of_decode_error {s : State} {cmd : CmdWord} {wdata : Nat} {rest : List Edge} {e : Illegal}
    (hin : s.inputs = .present cmd wdata :: rest) (hready : s.cmdReady = true) (h : decode cmd = .error e) :
    stepViolation s = some .illegalWord := by
  simp only [stepViolation, edge_of_present hin hready, h]

/-- No breach of U1: the index is in the period. -/
theorem index_lt_of_violation_eq_none {w : Half} {s : State} (h : violation (.computeWindow w) s = none) :
    w.toNat < s.period.toNat := by
  simpa [violation] using h

/-- No breach of U3: the port exists. -/
theorem port_lt_of_violation_eq_none {port byte : Byte} {s : State} (h : violation (.setBaseState port byte) s = none) :
    port.toNat < s.portCount := by
  simpa [violation] using h

end Sys2Proof.Machine

open Sys2Proof Sys2Proof.Machine

/-- Settles O6: acceptance, then the decoder. -/
theorem stepRunsTheDecodedCommand : Obligations.StepRunsTheDecodedCommand :=
  fun _ _ _ _ _ => step_of_decode_ok

/-- Settles O7: in each case the edge gives no command, so the idle state stands. -/
theorem edgeWithoutCommandMovesNoRegister : Obligations.EdgeWithoutCommandMovesNoRegister := by
  refine fun s => ⟨fun hin => ?_, fun rest hin => ?_, fun cmd wdata rest hin hready => ?_⟩
  · have hedge : s.edge = (none, s.idle s.inputs) := by simp [State.edge, hin]
    exact step_of_edge_none hedge
  · exact step_of_edge_none (by simp only [State.edge, hin]; rfl)
  · have hedge : s.edge = (none, s.idle s.inputs) := by simp [State.edge, hin, hready]
    exact step_of_edge_none hedge

/-- Settles O8: an accepted word is answered; any other edge is idle or a reset. -/
theorem everyAcceptedCommandIsAnswered : Obligations.EveryAcceptedCommandIsAnswered := by
  refine ⟨fun s cmd wdata rest hin hready => ?_, fun s hnone => ?_⟩
  · obtain ⟨t, r, hrun, hrsp, hinputs, hr⟩ := runWord_answers cmd (s.accept wdata rest)
    exact ⟨t, r, (step_of_present hin hready).trans hrun, hrsp, hinputs, hr.trans hready⟩
  · obtain ⟨rest, hedge⟩ | ⟨rest, -, hedge⟩ | ⟨cmd, wdata, rest, hin, hready, -⟩ := edge_cases s
    · exact ⟨_, step_of_edge_none hedge, rfl⟩
    · exact ⟨_, step_of_edge_none hedge, rfl⟩
    · rcases hnone with hbusy | hquiet
      · simp [hready] at hbusy
      · exact absurd hin (hquiet cmd wdata rest)

/-- Settles O42: no breach leaves an index in the period, a port that exists, and a word that decodes. -/
theorem safeStepsAnswerDefinedResults : Obligations.SafeStepsAnswerDefinedResults := by
  intro s t hsafe hstep
  obtain ⟨rest, rfl⟩ | ⟨rest, -, rfl⟩ | ⟨cmd, wdata, rest, hin, hready, ⟨i, hd, hexec⟩ | ⟨e, hd, -⟩⟩ := step_cases hstep
  · simp
  · simp
  · rw [stepViolation_of_decode_ok hin hready hd] at hsafe
    refine ⟨exec_freeCount (s := s.accept wdata rest) hexec ?_, fun r hr => ?_⟩
    · rintro w rfl
      exact index_lt_of_violation_eq_none hsafe
    · obtain hok | ⟨port, byte, rfl, hport, -⟩ := exec_status hexec hr
      · exact hok
      · exact absurd (port_lt_of_violation_eq_none hsafe) (Nat.not_lt.2 hport)
  · rw [stepViolation_of_decode_error hin hready hd] at hsafe
    cases hsafe
end

section
/-! PROOFS. The ranking (spec/41_rank_mapper.md R82): ranks below the active count, the population count, and the order of
the scan (R33). -/

namespace Sys2Proof.Machine

/-- The scan meets more active channels once it has passed an active one. -/
theorem activeBefore_lt {bm : Bitmap} {j k : Nat} (hj : bitAt bm (scanChannel j) = true) (h : j < k) :
    activeBefore bm j < activeBefore bm k := by
  rw [activeBefore_eq_count, activeBefore_eq_count]
  exact Nat.count_strict_mono hj h

/-- A rank is below the active count (R82 item 1). -/
theorem derive_rank_lt {bm : Bitmap} {c r : Nat} (h : (derive bm).1.getD c none = some r) : r < (derive bm).2 := by
  obtain ⟨hactive, rfl⟩ := (derive_rank_eq_some_iff ..).1 h
  have hc : c < 8 * bm.length := by
    by_contra hge
    simp [bitAt_of_ge bm c (Nat.le_of_not_lt hge)] at hactive
  rw [derive_count_scan]
  exact activeBefore_lt (by rwa [scanChannel_scanChannel]) (scanChannel_lt hc)

/-- The scan visits every channel once (R33). -/
theorem map_scanChannel_range_perm (ports : Nat) :
    ((List.range (8 * ports)).map scanChannel).Perm (List.range (8 * ports)) := by
  have hinj : Function.Injective scanChannel := Function.Involutive.injective scanChannel_scanChannel
  refine (List.perm_ext_iff_of_nodup (List.nodup_range.map hinj) List.nodup_range).2 fun c => ?_
  simp only [List.mem_map, List.mem_range]
  constructor
  · rintro ⟨k, hk, rfl⟩
    exact scanChannel_lt hk
  · exact fun hc => ⟨scanChannel c, scanChannel_lt hc, scanChannel_scanChannel c⟩

/-- The active count is the population count (R82 item 2). -/
theorem derive_count_eq_countP (bm : Bitmap) : (derive bm).2 = (List.range (8 * bm.length)).countP (bitAt bm) := by
  rw [derive_count_scan, activeBefore, ← (map_scanChannel_range_perm bm.length).countP_eq, List.countP_map]
  refine congrArg (List.countP · _) (funext fun c => ?_)
  rw [Function.comp_apply, scanChannel_scanChannel]

/-- The scan goes through the ports upward and inside a port through the bits downward (R33). -/
theorem scanChannel_lt_scanChannel {c d : Nat} (h : c / 8 < d / 8 ∨ (c / 8 = d / 8 ∧ d % 8 < c % 8)) :
    scanChannel c < scanChannel d := by
  simp only [scanChannel]
  omega

end Sys2Proof.Machine

open Sys2Proof Sys2Proof.Machine

/-- Settles O17: a rank is the number of active channels scanned before, so it is below the count and belongs to one
channel. -/
theorem rankingIsABijection : Obligations.RankingIsABijection := by
  refine fun base => ⟨fun c _ hoff => ?_, fun c _ hon => ?_, fun r hr => ?_⟩
  · rw [Option.eq_none_iff_forall_ne_some]
    intro r hrank
    simp [((derive_rank_eq_some_iff ..).1 hrank).1] at hoff
  · have hrank := (derive_rank_eq_some_iff base c _).2 ⟨hon, rfl⟩
    exact ⟨_, hrank, derive_rank_lt hrank⟩
  · obtain ⟨c, hc, hrank⟩ := exists_channel_of_rank hr
    exact ⟨c, ⟨hc, ((derive_rank_eq_some_iff ..).1 hrank).1, hrank⟩, fun d hd => derive_rank_injective hd hrank⟩

/-- Settles O18: the scan meets every active channel once. -/
theorem activeCountIsPopulationCount : Obligations.ActiveCountIsPopulationCount :=
  fun base => ⟨derive_count_eq_countP base, derive_count_le base⟩

/-- Settles O19: the channel scanned first is active, so it counts for the rank of the other. -/
theorem ranksRiseAlongTheScan : Obligations.RanksRiseAlongTheScan := by
  intro base c d r q _ _ horder hc hd
  obtain ⟨hactive, rfl⟩ := (derive_rank_eq_some_iff ..).1 hc
  obtain ⟨-, rfl⟩ := (derive_rank_eq_some_iff ..).1 hd
  exact activeBefore_lt (by rwa [scanChannel_scanChannel]) (scanChannel_lt_scanChannel horder)
end

section
/-! PROOFS. Writes to BASE read back (spec/40_control_plane.md R66, R67, R69), and commands issued twice
(spec/20_memory.md R36). -/

namespace Sys2Proof.Machine

/-- A word that fits the bus is the word of its bytes (R32). -/
theorem busWord_ofBusWord {ports w : Nat} (h : w < 2 ^ (8 * ports)) : busWord (ofBusWord ports w) = w := by
  refine Nat.eq_of_testBit_eq fun c => ?_
  rw [busWord_testBit]
  by_cases hc : c < 8 * ports
  · exact bitAt_ofBusWord ports w c hc
  · have hge : 8 * ports ≤ c := Nat.le_of_not_lt hc
    rw [bitAt_of_ge _ _ (by rwa [ofBusWord_length]),
      Nat.testBit_lt_two_pow (h.trans_le (Nat.pow_le_pow_right Nat.two_pos hge))]

/-- The bulk word of a bitmap of the block's size is that bitmap as the operand (R32, R66). -/
theorem bitmapOperand_busWord {s : State} {b : Bitmap} (hlen : b.length = s.portCount) (hw : s.wdata = busWord b) :
    s.bitmapOperand = b := by
  rw [State.bitmapOperand, hw, ← hlen, ofBusWord_busWord]

/-! ### Commands issued twice (R36) -/

/-- Where the period invariant holds REVALIDATE_PERIOD changes nothing (R17, R85). -/
theorem revalidatePeriod_eq_self {s : State} (h : s.PeriodCovers) : s.revalidatePeriod = s := by
  have hperiod : s.revalidatePeriod.period = s.period := by
    have hmax : max s.period.toNat s.floor = s.period.toNat := max_eq_left h
    rw [State.revalidatePeriod_period, hmax, BitVec.ofNat_toNat, BitVec.setWidth_eq]
  calc s.revalidatePeriod = { s with period := s.revalidatePeriod.period } := rfl
    _ = s := by rw [hperiod]

theorem revalidatePeriod_after_respond {s : State} (h : s.PeriodCovers) :
    (s.respond .ok 0#16 0).revalidatePeriod.respond .ok 0#16 0 = s.respond .ok 0#16 0 := by
  have hself : (s.respond .ok 0#16 0).revalidatePeriod = s.respond .ok 0#16 0 := revalidatePeriod_eq_self h
  rw [hself]
  rfl

theorem writeMode_twice {s : State} (h : s.Inv) (mode : Byte) :
    (s.writeMode mode).writeMode mode = s.writeMode mode := by
  obtain ⟨-, -, hperiod⟩ := writeMode_inv h mode
  exact revalidatePeriod_after_respond (s := (s.storeMode mode).revalidatePeriod) hperiod

theorem writeBase_twice {s : State} {b : Bitmap} (h : s.Shape) (hlen : b.length = s.portCount) :
    (s.writeBase b).writeBase b = s.writeBase b := by
  obtain ⟨-, -, hperiod⟩ := writeBase_inv h hlen
  exact revalidatePeriod_after_respond hperiod

theorem writeBase_portCount (s : State) (b : Bitmap) : (s.writeBase b).portCount = b.length := rfl

/-- A second SET_BASE_STATES finds the same operand: the sampled word and the port count stay. -/
theorem writeBase_bitmapOperand {s : State} {b : Bitmap} (hlen : b.length = s.portCount) :
    (s.writeBase b).bitmapOperand = s.bitmapOperand :=
  congrArg (ofBusWord · s.wdata) hlen

end Sys2Proof.Machine

open Sys2Proof Sys2Proof.Machine

/-- Settles O25: the sampled word fits the bus, so its bytes make up the word again. -/
theorem bulkWriteReadsBack : Obligations.BulkWriteReadsBack := by
  rintro s ⟨⟨-, -, -, -, hwdata⟩, -⟩
  refine ⟨_, _, exec_setBaseStates s, rfl, ?_⟩
  have hread : busWord s.bitmapOperand = s.wdata := busWord_ofBusWord hwdata
  rw [← hread]
  rfl

/-- Settles O26: byte by byte, one byte of BASE being set. -/
theorem portWriteReadsBack : Obligations.PortWriteReadsBack := by
  intro s port byte hport
  refine ⟨_, _, _, _, exec_setBaseState byte hport, rfl, rfl, rfl, ?_, fun q hq hne => ?_⟩
  · rw [busWord_byte]
    exact congrArg BitVec.toNat ((getD_set_port s.base _ _ byte hport).trans (if_pos rfl))
  · rw [busWord_byte, busWord_byte]
    exact congrArg BitVec.toNat ((getD_set_port s.base _ _ byte hq).trans (if_neg hne))

/-- Settles O27: both commands write the same BASE; the bulk operand is the bitmap whose word is on `wdata`. -/
theorem portWriteIsABulkWrite : Obligations.PortWriteIsABulkWrite := by
  intro s port byte hport
  refine ⟨_, exec_setBaseState byte hport, ?_⟩
  rw [exec_setBaseStates, bitmapOperand_busWord List.length_set rfl]
  rfl

/-- Settles O28: command by command; a mutator finds its register written and the period re-validated. -/
theorem commandsAreIdempotent : Obligations.CommandsAreIdempotent := by
  intro s i h hindex
  have ⟨hshape, _, _⟩ := h
  cases i with
  | configure mode =>
    refine ⟨_, exec_configure mode s, ?_⟩
    rw [exec_configure, writeMode_twice h]
  | setBaseStates =>
    have hlen : s.bitmapOperand.length = s.portCount := ofBusWord_length _ _
    refine ⟨_, exec_setBaseStates s, ?_⟩
    rw [exec_setBaseStates, writeBase_bitmapOperand hlen, writeBase_twice hshape hlen]
  | setBaseState port byte =>
    by_cases hport : s.portCount ≤ port.toNat
    · exact ⟨_, execSetBaseState_out_of_range s port byte hport,
        execSetBaseState_out_of_range (s.answerError .portRange) port byte hport⟩
    · have hlt := Nat.lt_of_not_le hport
      have hlen : (s.base.set port.toNat byte).length = s.portCount := List.length_set
      have hset : (s.writeBase (s.base.set port.toNat byte)).base.set port.toNat byte = s.base.set port.toNat byte :=
        List.set_set ..
      refine ⟨_, exec_setBaseState byte hlt, ?_⟩
      rw [exec_setBaseState byte (by rwa [writeBase_portCount, hlen]), hset, writeBase_twice hshape hlen]
  | setPeriod requested => exact ⟨_, rfl, rfl⟩
  | getBaseStates => exact ⟨_, rfl, rfl⟩
  | computeWindow w =>
    have hw := hindex w rfl
    exact ⟨_, exec_computeWindow hw, exec_computeWindow hw⟩
end

section
/-! PROOFS. The boot sequence (spec/70_reset_and_hazards.md R127): what each command of it leaves, a run of the port writes
and CONFIGURE in any order, and the SET_PERIOD at its end. -/

namespace Sys2Proof.Machine

/-! ### One command -/

/-- An encoded command presented to a ready port is executed (R46, R51). -/
theorem step_of_encode {s : State} {i : Instr} {wdata : Nat} {rest : List Edge}
    (hin : s.inputs = .present (encode i) wdata :: rest) (hready : s.cmdReady = true) :
    step s = exec i (s.accept wdata rest) :=
  step_of_decode_ok hin hready (decode_encode i)

/-- CONFIGURE in the boot sequence. -/
theorem step_configure {s : State} {mode : Byte} {wdata : Nat} {rest : List Edge}
    (hin : s.inputs = .present (encode (.configure mode)) wdata :: rest) (hready : s.cmdReady = true) :
    ∃ t, step s = .next t ∧ t.inputs = rest ∧ t.cmdReady = true ∧ t.mode = mode ∧ t.base = s.base :=
  ⟨_, step_of_encode hin hready, rfl, hready, rfl, rfl⟩

/-- SET_BASE_STATES in the boot sequence. -/
theorem step_setBaseStates {s : State} {wdata : Nat} {rest : List Edge}
    (hin : s.inputs = .present (encode .setBaseStates) wdata :: rest) (hready : s.cmdReady = true) :
    ∃ t, step s = .next t ∧ t.inputs = rest ∧ t.cmdReady = true ∧ t.mode = s.mode ∧
      t.base = ofBusWord s.portCount (wdata % 2 ^ (8 * s.portCount)) :=
  ⟨_, step_of_encode hin hready, rfl, hready, rfl, rfl⟩

/-- SET_BASE_STATE in the boot sequence, on a port that exists. -/
theorem step_setBaseState {s : State} {port byte : Byte} {wdata : Nat} {rest : List Edge}
    (hin : s.inputs = .present (encode (.setBaseState port byte)) wdata :: rest) (hready : s.cmdReady = true)
    (hport : port.toNat < s.portCount) :
    ∃ t, step s = .next t ∧ t.inputs = rest ∧ t.cmdReady = true ∧ t.mode = s.mode ∧
      t.base = s.base.set port.toNat byte :=
  ⟨_, (step_of_encode hin hready).trans (exec_setBaseState byte hport), rfl, hready, rfl, rfl⟩

/-- SET_PERIOD, the last command of the boot sequence: MODE and BASE stay, and the new PERIOD is the larger of the request
and the floor (R68). -/
theorem step_setPeriod {s : State} {requested : Half} {wdata : Nat} {rest : List Edge} (h : s.Inv)
    (hin : s.inputs = .present (encode (.setPeriod requested)) wdata :: rest) (hready : s.cmdReady = true) :
    ∃ t, step s = .next t ∧ t.inputs = rest ∧ t.mode = s.mode ∧ t.base = s.base ∧
      (t.rank, t.activeCount) = derive s.base ∧
      t.period.toNat = max requested.toNat (t.activeCount + (s.mode.getLsbD 0).toNat) ∧
      t.rsp = some ⟨.ok, t.period, 0⟩ := by
  obtain ⟨hshape, hranks, -⟩ := accept_inv h wdata rest
  exact ⟨_, step_of_encode hin hready, rfl, rfl, rfl, hranks, clampPeriod_toNat requested (floor_lt hshape hranks), rfl⟩

/-! ### CONFIGURE and the port writes in any order -/

/-- What command `i` of the boot sequence for `bitmap` has to leave: its mode, or its port's byte of `bitmap`. -/
def Booted (bitmap : Bitmap) (i : Instr) (s : State) : Prop :=
  match i with
  | .configure mode => s.mode = mode
  | .setBaseState port _ => s.base.getD port.toNat 0#8 = bitmap.getD port.toNat 0#8
  | _ => True

theorem mem_bootCommandsByPort {mode : Byte} {bitmap : Bitmap} (hle : bitmap.length ≤ 256) {i : Instr}
    (h : i ∈ bootCommandsByPort mode bitmap) :
    i = .configure mode ∨
      ∃ port : Byte, port.toNat < bitmap.length ∧ i = .setBaseState port (bitmap.getD port.toNat 0#8) := by
  obtain rfl | hport := List.mem_cons.1 h
  · exact .inl rfl
  · obtain ⟨p, hp, rfl⟩ := List.mem_map.1 hport
    have hp := List.mem_range.1 hp
    have hnum : (BitVec.ofNat 8 p).toNat = p := operand_toNat (hp.trans_le hle)
    exact .inr ⟨BitVec.ofNat 8 p, hnum.symm ▸ hp, by rw [hnum]⟩

/-- A command of the boot sequence does its part and undoes none that another has done. -/
theorem step_boot {s : State} {mode : Byte} {bitmap : Bitmap} {i : Instr} {wdata : Nat} {rest : List Edge}
    (h : s.Inv) (hready : s.cmdReady = true) (hlen : bitmap.length = s.portCount)
    (hi : i ∈ bootCommandsByPort mode bitmap) (hin : s.inputs = .present (encode i) wdata :: rest) :
    ∃ t, step s = .next t ∧ t.inputs = rest ∧ t.cmdReady = true ∧ Booted bitmap i t ∧
      ∀ j ∈ bootCommandsByPort mode bitmap, Booted bitmap j s → Booted bitmap j t := by
  obtain ⟨⟨-, hle, -⟩, -⟩ := h
  obtain rfl | ⟨port, hport, rfl⟩ := mem_bootCommandsByPort (hlen.trans_le hle) hi
  · obtain ⟨t, hstep, hinputs, hr, hmode, hbase⟩ := step_configure hin hready
    refine ⟨t, hstep, hinputs, hr, hmode, fun j hj hbooted => ?_⟩
    obtain rfl | ⟨q, -, rfl⟩ := mem_bootCommandsByPort (hlen.trans_le hle) hj
    · exact hmode
    · simpa only [Booted, hbase] using hbooted
  · rw [hlen] at hport
    obtain ⟨t, hstep, hinputs, hr, hmode, hbase⟩ := step_setBaseState hin hready hport
    have hbyte (q : Byte) (hq : q.toNat < s.portCount) := getD_set_port s.base port.toNat q.toNat
      (bitmap.getD port.toNat 0#8) hq
    refine ⟨t, hstep, hinputs, hr, ?_, fun j hj hbooted => ?_⟩
    · rw [Booted, hbase, hbyte port hport, if_pos rfl]
    · obtain rfl | ⟨q, hq, rfl⟩ := mem_bootCommandsByPort (hlen.trans_le hle) hj
      · exact hmode.trans hbooted
      · rw [Booted, hbase, hbyte q (hlen ▸ hq)]
        split_ifs with heq
        · rw [heq]
        · exact hbooted

/-- A run of boot commands leaves what each of them has to leave, in whatever order they come. -/
theorem run_boot {mode : Byte} {bitmap : Bitmap} (cmds : List (Instr × Nat)) {s : State} {rest : List Edge}
    (h : s.Inv) (hready : s.cmdReady = true) (hlen : bitmap.length = s.portCount)
    (hcmds : ∀ i ∈ cmds.map Prod.fst, i ∈ bootCommandsByPort mode bitmap)
    (hin : s.inputs = (cmds.map fun c => Edge.present (encode c.1) c.2) ++ rest) :
    ∃ t : State, core.run cmds.length s = .next t ∧ t.inputs = rest ∧ t.cmdReady = true ∧ t.Inv ∧
      bitmap.length = t.portCount ∧ (∀ i ∈ cmds.map Prod.fst, Booted bitmap i t) ∧
      ∀ j ∈ bootCommandsByPort mode bitmap, Booted bitmap j s → Booted bitmap j t := by
  induction cmds generalizing s with
  | nil => exact ⟨s, rfl, hin, hready, h, hlen, by simp, fun _ _ => id⟩
  | cons c cmds ih =>
    simp only [List.map_cons, List.forall_mem_cons] at hcmds ⊢
    obtain ⟨hc, hcmds⟩ := hcmds
    obtain ⟨u, hstep, huin, huready, hdone, hkeeps⟩ := step_boot h hready hlen hc hin
    have hcount : u.portCount = s.portCount := (portCountIsFixed s u hstep).1
    obtain ⟨t, hrun, htin, htready, ht, htlen, hall, hkeeps'⟩ :=
      ih (step_inv h hstep) huready (hlen.trans hcount.symm) hcmds huin
    exact ⟨t, (core_run_succ _ hstep).trans hrun, htin, htready, ht, htlen, ⟨hkeeps' _ hc hdone, hall⟩,
      fun j hj hs => hkeeps' j hj (hkeeps j hj hs)⟩

/-- Where every port write of the boot sequence has left its byte, BASE is the bitmap. -/
theorem base_eq_of_booted {s : State} {mode : Byte} {bitmap : Bitmap} (hlen : bitmap.length = s.portCount)
    (hle : s.portCount ≤ 256) (h : ∀ i ∈ bootCommandsByPort mode bitmap, Booted bitmap i s) : s.base = bitmap := by
  refine List.ext_getElem hlen.symm fun p hp hp' => ?_
  have hwrite := h _ (List.mem_cons_of_mem _ (List.mem_map_of_mem (List.mem_range.2 hp')))
  have hnum : (BitVec.ofNat 8 p).toNat = p := operand_toNat (hp.trans_le hle)
  rwa [Booted, hnum, List.getD_eq_getElem _ _ hp, List.getD_eq_getElem _ _ hp'] at hwrite

end Sys2Proof.Machine

open Sys2Proof Sys2Proof.Machine

/-- Settles O31: CONFIGURE keeps BASE and SET_BASE_STATES keeps MODE, so both orders leave the operands. -/
theorem bootFixesTheConfiguration : Obligations.BootFixesTheConfiguration := by
  intro s mode bitmap requested first second rest h hready horder hin
  have hsetup : ∃ a b, step s = .next a ∧ step a = .next b ∧
      b.inputs = .present (encode (.setPeriod requested)) 0 :: rest ∧ b.cmdReady = true ∧ b.mode = mode ∧
      b.base = ofBusWord s.portCount (bitmap % 2 ^ (8 * s.portCount)) := by
    obtain ⟨rfl, rfl⟩ | ⟨rfl, rfl⟩ := horder
    · obtain ⟨a, ha, hain, haready, hamode, habase⟩ := step_configure hin hready
      obtain ⟨b, hb, hbin, hbready, hbmode, hbbase⟩ := step_setBaseStates hain haready
      rw [State.portCount, habase] at hbbase
      exact ⟨a, b, ha, hb, hbin, hbready, hbmode.trans hamode, hbbase⟩
    · obtain ⟨a, ha, hain, haready, -, habase⟩ := step_setBaseStates hin hready
      obtain ⟨b, hb, hbin, hbready, hbmode, hbbase⟩ := step_configure hain haready
      exact ⟨a, b, ha, hb, hbin, hbready, hbmode, hbbase.trans habase⟩
  obtain ⟨a, b, ha, hb, hbin, hbready, hmode, hbase⟩ := hsetup
  obtain ⟨t, ht, htin, htmode, htbase, htranks, htperiod, htrsp⟩ :=
    step_setPeriod (step_inv (step_inv h ha) hb) hbin hbready
  refine ⟨a, b, t, ha, hb, ht, htin, htmode.trans hmode, ?_, fun c hc => ?_, htbase ▸ htranks, hmode ▸ htperiod, htrsp⟩
  · rw [State.portCount, htbase, hbase, ofBusWord_length]
  · have hc' : c < 8 * s.portCount := hc
    rw [State.baseBit, htbase, hbase, bitAt_ofBusWord _ _ _ hc, Nat.testBit_mod_two_pow, decide_eq_true hc',
      Bool.true_and]

/-- Settles O43: each command of the sequence does its part and keeps the parts of the others, so the order is free. -/
theorem bootPortByPortFixesTheConfiguration : Obligations.BootPortByPortFixesTheConfiguration := by
  intro s mode bitmap requested cmds wdata rest h hready hlen hperm hin
  obtain ⟨b, hrun, hbin, hbready, hb, hblen, hdone, -⟩ := run_boot cmds h hready hlen (fun i => hperm.mem_iff.1) hin
  have ⟨⟨_, hle, _⟩, _⟩ := hb
  have hbooted : ∀ i ∈ bootCommandsByPort mode bitmap, Booted bitmap i b := fun i hi => hdone i (hperm.mem_iff.2 hi)
  have hmode : b.mode = mode := hbooted (.configure mode) List.mem_cons_self
  have hbase : b.base = bitmap := base_eq_of_booted hblen hle hbooted
  have hcount : cmds.length = s.portCount + 1 := by
    rw [← hlen, ← List.length_map Prod.fst, hperm.length_eq, bootCommandsByPort]
    simp
  obtain ⟨t, ht, htin, htmode, htbase, htranks, htperiod, htrsp⟩ := step_setPeriod hb hbin hbready
  refine ⟨t, ?_, htin, htmode.trans hmode, htbase.trans hbase, hbase ▸ htranks, hmode ▸ htperiod, htrsp⟩
  calc core.run (s.portCount + 2) s = core.run (cmds.length + 1) s := by rw [hcount]
    _ = core.run 1 b := core_run_add _ _ hrun
    _ = .next t := core_run_succ 0 ht
end

section
/-! PROOFS. The measurement region as a whole (spec/42_window_generator.md R95, R101, R102): the word of a slot, and the one
slot of each active channel. -/

namespace Sys2Proof.Machine

/-! ### Words that differ in one bit -/

/-- To set a bit that is clear is to add its power of two. -/
theorem add_two_pow_eq_of_testBit {c x y : Nat} (hx : x.testBit c = false) (hy : y.testBit c = true)
    (h : ∀ d ≠ c, x.testBit d = y.testBit d) : x + 2 ^ c = y := by
  induction c generalizing x y with
  | zero =>
    have hhalf : x / 2 = y / 2 := Nat.eq_of_testBit_eq fun d => by
      rw [Nat.testBit_div_two, Nat.testBit_div_two, h (d + 1) (Nat.succ_ne_zero d)]
    simp only [Nat.testBit_zero, decide_eq_true_eq, decide_eq_false_iff_not] at hx hy
    omega
  | succ c ih =>
    have hhalf : x / 2 + 2 ^ c = y / 2 := by
      refine ih (by rwa [Nat.testBit_div_two]) (by rwa [Nat.testBit_div_two]) fun d hd => ?_
      rw [Nat.testBit_div_two, Nat.testBit_div_two, h (d + 1) (by omega)]
    have hlow := h 0 (Nat.succ_ne_zero c).symm
    simp only [Nat.testBit_zero, decide_eq_decide] at hlow
    rw [Nat.pow_succ]
    omega

/-! ### The word of a measurement slot (R95, R102) -/

/-- Step 1a of the algorithm on a channel of the block (R94). -/
theorem bitAt_windowBitmap_measurement {s : State} {w c : Nat} (hactive : 1 < s.activeCount)
    (hregion : s.period.toNat ≤ w + s.activeCount) (hc : c < s.channelCount) :
    bitAt (s.windowBitmap w) c =
      if s.rankOf c = some (w + s.activeCount - s.period.toNat) then !s.flagS else s.flagS && s.baseBit c := by
  rw [bitAt_windowBitmap s w c hc, windowBit_eq, if_pos ⟨hactive, hregion⟩]

/-- In a measurement slot every channel but the isolated one shows `S AND base`, the channels that do not exist too. -/
theorem bitAt_windowBitmap_not_isolated {s : State} {w c : Nat} (hactive : 1 < s.activeCount)
    (hregion : s.period.toNat ≤ w + s.activeCount) (hc : s.rankOf c ≠ some (w + s.activeCount - s.period.toNat)) :
    bitAt (s.windowBitmap w) c = (s.flagS && s.baseBit c) := by
  by_cases hlt : c < s.channelCount
  · rw [bitAt_windowBitmap_measurement hactive hregion hlt, if_neg hc]
  · have hge : 8 * s.base.length ≤ c := Nat.le_of_not_lt hlt
    have hlen : (s.windowBitmap w).length = s.base.length := windowBitmap_length s w
    rw [bitAt_of_ge _ c (hlen.symm ▸ hge), State.baseBit, bitAt_of_ge _ c hge, Bool.and_false]

/-! ### The slot of a channel (R87, R101) -/

/-- A channel with a rank is active (R16, R82 item 3). -/
theorem baseBit_of_rankOf {s : State} {c r : Nat} (hranks : s.RanksDerived) (h : s.rankOf c = some r) :
    s.baseBit c = true := by
  rw [rankOf_eq hranks] at h
  exact ((derive_rank_eq_some_iff ..).1 h).1

/-- An active channel has a rank below the active count (R16, R82 item 1). -/
theorem exists_rank_of_baseBit {s : State} {c : Nat} (hranks : s.RanksDerived) (h : s.baseBit c = true) :
    ∃ r < s.activeCount, s.rankOf c = some r := by
  have hrank := (derive_rank_eq_some_iff s.base c _).2 ⟨h, rfl⟩
  rw [activeCount_eq hranks]
  exact ⟨_, derive_rank_lt hrank, (rankOf_eq hranks c).trans hrank⟩

/-- In a measurement slot the window bit of a channel differs from `S AND base` exactly when the slot is that of its rank. -/
theorem windowBitmap_ne_iff_rankOf {s : State} {w c : Nat} (hranks : s.RanksDerived) (hactive : 1 < s.activeCount)
    (hregion : s.period.toNat ≤ w + s.activeCount) (hc : c < s.channelCount) :
    bitAt (s.windowBitmap w) c ≠ (s.flagS && s.baseBit c) ↔
      s.rankOf c = some (w + s.activeCount - s.period.toNat) := by
  rw [bitAt_windowBitmap_measurement hactive hregion hc]
  split_ifs with hrank
  · simp [hrank, baseBit_of_rankOf hranks hrank]
  · simp [hrank]

/-- Slot `w` is in the measurement region and the window that COMPUTE_WINDOW leaves there isolates channel `c` (R101). -/
def IsolatesInSlot (s : State) (w : Half) (c : Nat) : Prop :=
  s.period.toNat ≤ w.toNat + s.activeCount ∧ w.toNat < s.period.toNat ∧
    ∃ t, exec (.computeWindow w) s = .next t ∧ t.winBit c ≠ (s.flagS && s.baseBit c)

theorem isolatesInSlot_iff {s : State} {w : Half} {c : Nat} (hranks : s.RanksDerived) (hactive : 1 < s.activeCount)
    (hc : c < s.channelCount) :
    IsolatesInSlot s w c ↔ s.period.toNat ≤ w.toNat + s.activeCount ∧ w.toNat < s.period.toNat ∧
      s.rankOf c = some (w.toNat + s.activeCount - s.period.toNat) := by
  refine and_congr_right fun hregion => and_congr_right fun hw => ?_
  rw [exec_computeWindow hw, ← windowBitmap_ne_iff_rankOf hranks hactive hregion hc]
  constructor
  · rintro ⟨t, ht, hbit⟩
    cases ht
    exact hbit
  · exact fun hbit => ⟨_, rfl, hbit⟩

end Sys2Proof.Machine

open Sys2Proof Sys2Proof.Machine

/-- Settles O34: the isolated channel's bit is the only one by which the word differs from `S AND base`. -/
theorem measurementWordIsOneChannelApart : Obligations.MeasurementWordIsOneChannelApart := by
  rintro s w ⟨-, hranks, -⟩ hactive hw hregion
  obtain ⟨c, hc, hrank, hbase, hunique⟩ := exists_isolated_channel hranks hw hregion
  have hisolated : bitAt (s.windowBitmap w.toNat) c = !s.flagS := by
    rw [bitAt_windowBitmap_measurement hactive hregion hc, if_pos hrank]
  have hother (d : Nat) (hd : d ≠ c) : bitAt (s.windowBitmap w.toNat) d = (s.flagS && s.baseBit d) :=
    bitAt_windowBitmap_not_isolated hactive hregion (mt (hunique d) hd)
  refine ⟨_, c, exec_computeWindow hw, hc, hrank, fun hS => ?_, fun hS => ?_, rfl⟩
  · refine add_two_pow_eq_of_testBit ?_ ((busWord_testBit ..).trans hbase) fun d hd => ?_
    · rw [State.windowO, busWord_testBit, hisolated, hS, Bool.not_true]
    · rw [State.windowO, busWord_testBit, busWord_testBit, hother d hd, hS, Bool.true_and, State.baseBit]
  · refine ((Nat.zero_add _).symm.trans (add_two_pow_eq_of_testBit (Nat.zero_testBit c) ?_ fun d hd => ?_)).symm
    · rw [State.windowO, busWord_testBit, hisolated, hS, Bool.not_false]
    · rw [State.windowO, busWord_testBit, hother d hd, hS, Bool.false_and, Nat.zero_testBit]

/-- Settles O35: a slot isolates the channel whose rank is its number in the region, and the ranking is a bijection. -/
theorem everyActiveChannelIsolatedOnce : Obligations.EveryActiveChannelIsolatedOnce := by
  rintro s ⟨-, hranks, hperiod⟩ hactive
  refine ⟨fun c hc hon => ?_, fun c hc hoff w hiso => ?_⟩
  · obtain ⟨r, hr, hrank⟩ := exists_rank_of_baseBit hranks hon
    have hT := s.period.isLt
    have hcovers : s.activeCount ≤ s.period.toNat := le_of_add_le_left hperiod
    have hslot : (BitVec.ofNat 16 (s.period.toNat - s.activeCount + r)).toNat = s.period.toNat - s.activeCount + r :=
      operand_toNat (by omega)
    refine ⟨r, _, hrank, hslot, (isolatesInSlot_iff hranks hactive hc).2 ?_, fun v hiso => ?_⟩
    · rw [hslot, hrank, Option.some_inj]
      omega
    · obtain ⟨hregion, -, hvrank⟩ := (isolatesInSlot_iff hranks hactive hc).1 hiso
      rw [hrank, Option.some_inj] at hvrank
      refine BitVec.eq_of_toNat_eq (Eq.trans ?_ hslot.symm)
      omega
  · obtain ⟨-, -, hrank⟩ := (isolatesInSlot_iff hranks hactive hc).1 hiso
    simp [baseBit_of_rankOf hranks hrank] at hoff
end

section
/-! PROOFS. The reference Timing Driver (spec/70_reset_and_hazards.md R134, R136). -/

namespace Sys2Proof.Machine

/-- A driver that has learnt the period counts inside it (R136). -/
theorem driverLearn_slot_lt (d : Driver) {period : Half} (h : period.toNat ≠ 0) :
    (driverLearn d period).slot < period.toNat := by
  simp only [driverLearn]
  split_ifs with hslot
  · exact hslot
  · exact Nat.pos_of_ne_zero h

/-- The advance wraps at the period (R136). -/
theorem driverAdvance_slot_lt {d : Driver} (h : d.period ≠ 0) : (driverAdvance d).slot < d.period := by
  simp only [driverAdvance]
  split_ifs with hslot
  · exact hslot
  · exact Nat.pos_of_ne_zero h

/-- While the period is 0 the driver is quiet (R134). -/
theorem driverEdge_of_period_eq_zero {d : Driver} (h : d.period = 0) : driverEdge d = .quiet := if_pos h

theorem driverEdge_of_period_ne_zero {d : Driver} (h : d.period ≠ 0) :
    driverEdge d = .present (encode (.computeWindow (BitVec.ofNat 16 d.slot))) 0 := if_neg h

end Sys2Proof.Machine

open Sys2Proof Sys2Proof.Machine

/-- Settles O41: the driver learns `period_o` first, so its counter is in the period at the query and after the advance. -/
theorem driverAsksForSlotsOfThePeriod : Obligations.DriverAsksForSlotsOfThePeriod := by
  refine fun d s => ⟨fun hzero => driverEdge_of_period_eq_zero (d := driverLearn d s.period) hzero, fun hne => ?_⟩
  have hslot := driverLearn_slot_lt d hne
  have hnum := operand_toNat (hslot.trans s.period.isLt)
  exact ⟨⟨_, driverEdge_of_period_ne_zero (d := driverLearn d s.period) hne, hnum.trans_lt hslot⟩,
    driverAdvance_slot_lt (d := driverLearn d s.period) hne⟩
end
